-- ==== Sys2Proof/Word.lean ====
section
/-! DEFINITION. The word types, and the two containers of a fixed number of like things: eight tracks, four latches. -/

namespace Sys2Proof

/-- One byte of a frame (spec 10). -/
abbrev Byte := BitVec 8

/-- A 16-bit counter or number. -/
abbrev Word16 := BitVec 16

/-- A timestamp, the timebase, a switch counter or a revolution count (two's complement): spec 10 R192. -/
abbrev Word32 := BitVec 32

/-- Eight like things, one for each track T0..T7. -/
structure Oct (α : Type) where
  t0 : α
  t1 : α
  t2 : α
  t3 : α
  t4 : α
  t5 : α
  t6 : α
  t7 : α
  deriving DecidableEq, Repr

/-- Four like things, one for each latch LT0..LT3. -/
structure Quad (α : Type) where
  l0 : α
  l1 : α
  l2 : α
  l3 : α
  deriving DecidableEq, Repr

namespace Oct

/-- The thing of one track. -/
def get {α : Type} (o : Oct α) (i : Fin 8) : α :=
  match i with
  | 0 => o.t0 | 1 => o.t1 | 2 => o.t2 | 3 => o.t3
  | 4 => o.t4 | 5 => o.t5 | 6 => o.t6 | 7 => o.t7

/-- Replace the thing of one track. -/
def set {α : Type} (o : Oct α) (i : Fin 8) (x : α) : Oct α :=
  match i with
  | 0 => { o with t0 := x } | 1 => { o with t1 := x } | 2 => { o with t2 := x } | 3 => { o with t3 := x }
  | 4 => { o with t4 := x } | 5 => { o with t5 := x } | 6 => { o with t6 := x } | 7 => { o with t7 := x }

/-- Eight copies of one thing. -/
def all {α : Type} (x : α) : Oct α := ⟨x, x, x, x, x, x, x, x⟩

/-- Apply a function to each thing. -/
def map {α β : Type} (f : α → β) (o : Oct α) : Oct β :=
  ⟨f o.t0, f o.t1, f o.t2, f o.t3, f o.t4, f o.t5, f o.t6, f o.t7⟩

/-- Combine the things of the same track. -/
def zip {α β γ : Type} (f : α → β → γ) (o : Oct α) (p : Oct β) : Oct γ :=
  ⟨f o.t0 p.t0, f o.t1 p.t1, f o.t2 p.t2, f o.t3 p.t3, f o.t4 p.t4, f o.t5 p.t5, f o.t6 p.t6, f o.t7 p.t7⟩

/-- The things in track order, T0 first. -/
def toList {α : Type} (o : Oct α) : List α := [o.t0, o.t1, o.t2, o.t3, o.t4, o.t5, o.t6, o.t7]

end Oct

namespace Quad

/-- The thing of one latch. -/
def get {α : Type} (q : Quad α) (i : Fin 4) : α :=
  match i with
  | 0 => q.l0 | 1 => q.l1 | 2 => q.l2 | 3 => q.l3

/-- Replace the thing of one latch. -/
def set {α : Type} (q : Quad α) (i : Fin 4) (x : α) : Quad α :=
  match i with
  | 0 => { q with l0 := x } | 1 => { q with l1 := x } | 2 => { q with l2 := x } | 3 => { q with l3 := x }

/-- Four copies of one thing. -/
def all {α : Type} (x : α) : Quad α := ⟨x, x, x, x⟩

/-- Combine the things of the same latch. -/
def zip {α β γ : Type} (f : α → β → γ) (q : Quad α) (r : Quad β) : Quad γ :=
  ⟨f q.l0 r.l0, f q.l1 r.l1, f q.l2 r.l2, f q.l3 r.l3⟩

/-- The things in latch order, LT0 first. -/
def toList {α : Type} (q : Quad α) : List α := [q.l0, q.l1, q.l2, q.l3]

end Quad

end Sys2Proof
end

