-- ==== Sys2Proof/Syntax.lean ====
section
/-! DEFINITION. The commands: one constructor for each row of spec/opcode_table.json. The table gives its rows no
operands; an operand here is what the event brings from outside the part (levels, bytes, straps), or an order that the
rules leave open (log 4). -/

namespace Sys2Proof

/-- The levels of the seven field inputs at one sample (spec 01 section 1.1); `true` is high. -/
structure Levels where
  qa : Bool
  qb : Bool
  qz : Bool
  lt : Quad Bool
  deriving DecidableEq, Repr

/-- What the receiver takes from RXD (spec 09 R163). -/
inductive ByteEvent where
  | good (b : Byte)
  | framing
  | lineBreak
  deriving DecidableEq, Repr

/-- A byte event with no good byte: a framing error, or a break (spec 09 R163, R167). -/
inductive LineError where
  | framing
  | lineBreak
  deriving DecidableEq, Repr

/-- When the BSC takes the arrival of a step, against the other hand-overs of the sample (spec 06 R117, R118): before
the RFT makes the loss of sync that the same step causes; after the RFT has made it, and before the BSC takes that loss;
after the BSC has taken the loss; or only after the index event of the same sample. -/
inductive ArrivalTurn where
  | beforeLoss
  | afterRft
  | afterLoss
  | afterIndex
  deriving DecidableEq, Repr, Inhabited

/-- Which of two hand-overs of one sample the BSC takes first: the index event, or the change to LOST (spec 06 R117). In
QUAD_ERROR, `eventFirst` takes the index event of the sample with it, where there is one. -/
inductive LossTurn where
  | eventFirst
  | lossFirst
  deriving DecidableEq, Repr, Inhabited

/-- What STEP takes of a step: `speed` is the TSU alone, which the other blocks follow at the next STEP; `take` is the step,
or what the TSU has left of it (log 4). A report may be handed over between the two (spec 08 R151, log 29). -/
inductive StepTurn where
  | speed
  | take (turn : ArrivalTurn)
  deriving DecidableEq, Repr, Inhabited

/-- What QUAD_ERROR takes of a quadrature error: `count` is the QDU's counter and its fault event alone, which the other
blocks follow at the next QUAD_ERROR; `take` is the error, or what the QDU has left of it (log 4). A report may be handed
over between the two (spec 08 R151, log 29). -/
inductive QuadTurn where
  | count
  | take (turn : LossTurn)
  deriving DecidableEq, Repr, Inhabited

/-- What LATCH_EDGE takes of a latch edge: the RFT takes each edge as a change of filtered level (spec 02 R26) and the LCU
as a capture or none (spec 07 R124), and either may be first (spec 07 R128). `both` is the RFT, as far as it has not taken
the edge, and then the LCU; `rft` and `lcu` are one of the two alone, and the other stays to be taken (log 17). `view` is
the moment of the sample that the LCU reads. -/
inductive EdgeTurn where
  | both (view : Nat)
  | rft
  | lcu (view : Nat)
  deriving DecidableEq, Repr, Inhabited

/-- The commands of the part, one constructor for each row of the table of operations and events. `view` operands, and
those of `EdgeTurn`, count back from the present moment to the moment of the sample at which the LCU (R128) or the RSC
(R157) reads the position, sync state and generation: 0 is now, 1 is before the latest such change in this sample, and
so on, but not before the latest request or report, and for a capture not before the latest capture (R129). -/
inductive Instr where
  -- resets and start-up
  | powerOnReset (straps : BitVec 2)
  | pinReset (straps : BitVec 2)
  | requestReset (straps : BitVec 2)
  | startupIdleEnd
  -- settling and field events
  | settlingEnd
  | latchSettlingEnd (latch : Fin 4)
  | step (turn : StepTurn)
  | quadError (turn : QuadTurn)
  | indexEvent (turn : LossTurn)
  | latchEdge (latch : Fin 4) (turn : EdgeTurn)
  | stallExpiry
  | speedDecay
  | holdoffEnd (latch : Fin 4)
  | positionTimerExpiry (view : Nat)
  -- the receiver and the transmitter
  | noise (e : ByteEvent)
  | lengthError (b : Byte)
  | byteError (e : LineError)
  | gapExpiry
  | frame (b : Byte)
  | transmitEnd
  | reportHandOver
  -- requests: each executes the oldest request of the inbound queue
  | badKind
  | identify
  | status
  | linkStatus
  | reset
  | axisGet
  | axisSet
  | positionSet
  | indexCheckSet
  | seek
  | seekAbort
  | release
  | syncStatus
  | speedSet
  | speedGet
  | windowAdd
  | windowRemove
  | trackClear
  | trackList
  | trackParamSet
  | shadowRevert
  | bankInfo
  | commitNow
  | commitAtPosition
  | commitAtIndex
  | commitCancel
  | outputEnable
  | trackModeSet
  | trackStatus
  | latchSet
  | latchArm
  | captureRead
  | captureFlush
  | reportSet
  | reportGrant
  | reportStatus
  -- the tick, good bytes, the reset pin and the idle line
  | sample (levels : Levels)
  | goodByte (b : Byte)
  | nrstLow
  | rxdIdle
  deriving DecidableEq, Repr

end Sys2Proof
end

