-- ==== Sys2Proof/Config.lean ====
section
/-! DEFINITION. What the part fixes for every run (identity codes, line rates) and the free values: choices and bytes
that the spec leaves open, as constants with no body (log 3, log 13). -/

namespace Sys2Proof

/-- The vendor code of IDENTIFY (spec 09 R185). -/
def Config.vendor : Nat := 0x2E41

/-- The family code of IDENTIFY and HELLO (spec 09 R185). -/
def Config.family : Nat := 0x0C08

/-- The revision of IDENTIFY and HELLO (spec 09 R185). -/
def Config.revision : Nat := 1

/-- The line rate in bit/s for the straps BAUD1, BAUD0 read as a two-bit number (spec 09 R162). -/
def Config.lineRate (straps : BitVec 2) : Nat :=
  match straps.toNat with
  | 0 => 115200
  | 1 => 460800
  | 2 => 1000000
  | _ => 2000000

/-- The gap timeout in bit times: more than 20 byte times of 10 bit times (spec 09 R162, R168). -/
def Config.gapTimeoutBits : Nat := 200

/-- FREE VALUE: a byte that the spec does not give (log 13). -/
opaque Config.freeByte : Nat → Byte

/-- FREE VALUE: whether the stall expiry comes before the step of its sample, where no command says (R52, log 3). -/
opaque Config.stallFirst : Nat → Bool

/-- FREE VALUE: whether a latch edge comes before a quadrature error or index event of its sample, where no command
says (R28, log 3). -/
opaque Config.latchFirst : Nat → Bool

/-- FREE VALUE: when the BSC takes an arrival, where no command says (R117, R118, log 3). -/
opaque Config.arrivalTurn : Nat → ArrivalTurn

/-- FREE VALUE: which hand-over the BSC takes first, where no command says (R117, log 3). -/
opaque Config.lossTurn : Nat → LossTurn

/-- FREE VALUE: the moment of the sample that a capture or snapshot reads, where no command says (R128, R157, log 3). -/
opaque Config.viewBack : Nat → Nat

/-- FREE VALUE: the latch whose edge the RFT takes before the LCU takes its next edge, where no command says (R128,
log 3). -/
opaque Config.refEdge : Nat → Option (Fin 4)

/-- FREE VALUE: the events of a report's own kind that come only after its hand-over, bit n for the n-th event that is not
folded yet (R151, log 29). -/
opaque Config.lateEvents : Nat → Nat

/-- FREE VALUE: the order of the completions of one sample, as the code of `shuffle` (R153, log 31). -/
opaque Config.completionOrder : Nat → Nat

end Sys2Proof
end

