-- ==== Sys2Proof/Machine/State.lean ====
section
/-! DEFINITION. The state of the part as plain data, block by block (spec 00, block table), the reasons to stop, and the
state right after a power-on reset. -/

namespace Sys2Proof.Machine

/-- Reasons to stop with a fault. The spec names none: every error of the part has a described effect (a counter, a
refused reply, a fault event, LOST), so this type has no constructor and no step faults (safe). -/
inductive Fault where
  deriving DecidableEq, Repr

/-- Reasons to refuse a command. -/
inductive Refusal where
  /-- A row whose meaning is not written; raised only by an arm of `exec` (safe). No arm is left so. -/
  | notModelled (mnemonic : String)
  deriving DecidableEq, Repr

/-! ## QDU and PCU (spec 01) -/

/-- Direction of travel, after inversion (R5, R10). -/
inductive Dir where
  | fwd
  | rev
  deriving DecidableEq, Repr

/-- Count modes (R4). -/
inductive CountMode where
  | x1
  | x2
  | x4
  deriving DecidableEq, Repr

/-- An input filter: count c and filtered level f (R1). -/
structure Filter where
  count : Nat
  level : Bool
  deriving DecidableEq, Repr

/-- The pair of filtered levels (A, B) (section 1.2). -/
structure Pair where
  a : Bool
  b : Bool
  deriving DecidableEq, Repr

/-- The Quadrature Decode Unit (R1..R9). -/
structure Qdu where
  a : Filter
  b : Filter
  z : Filter
  /-- samples of settling left; absent once settling has ended (R3) -/
  settling : Option Nat
  ref : Option Pair
  zRef : Option Bool
  quadErrors : Word16
  deriving DecidableEq, Repr

/-- The axis configuration (section 1.7). -/
structure AxisConfig where
  cpr : Nat
  countMode : CountMode
  invert : Bool
  filterLen : Nat
  indexEnable : Bool
  deriving DecidableEq, Repr

/-- A revolution count and an angle: what the part keeps of an absolute count (R11, section 2.2). -/
structure AbsPos where
  rev : Word32
  angle : Nat
  deriving DecidableEq, Repr

/-- The Position Counter Unit (R10). -/
structure Pcu where
  axis : AxisConfig
  pos : AbsPos
  dir : Dir
  deriving DecidableEq, Repr

/-! ## RFT (spec 02) -/

/-- Sync states (R22). -/
inductive SyncState where
  | free
  | seeking
  | locked
  | lost
  deriving DecidableEq, Repr

/-- Causes of the latest change of sync state (R22). -/
inductive SyncCause where
  | reset
  | seek
  | reference
  | travel
  | quadError
  | abort
  | release
  | indexErrors
  deriving DecidableEq, Repr

/-- The mark of a seek (section 2.2). -/
inductive Source where
  | index
  | latch (n : Fin 4)
  deriving DecidableEq, Repr

/-- Index policies (section 2.5). -/
inductive IndexPolicy where
  | observe
  | correct
  deriving DecidableEq, Repr

/-- A set of index-check settings (section 2.5). -/
structure CheckSet where
  check : Bool
  tolerance : Nat
  limit : Nat
  policy : IndexPolicy
  deriving DecidableEq, Repr

/-- The seek record (section 2.2). `edgeCode` is the code of the selected edge; for source INDEX the field is not
examined and the record's value is free (log 13). -/
structure SeekRecord where
  ticket : Byte
  source : Source
  edgeCode : Byte
  refValue : Nat
  travelLimit : Nat
  start : AbsPos
  deriving DecidableEq, Repr

/-- `index_pos` and `abs_at_last_index`, which are present together (section 2.2). -/
structure IndexRef where
  pos : Nat
  last : AbsPos
  deriving DecidableEq, Repr

/-- The reference record (section 2.2). -/
structure RefRecord where
  source : Source
  refValue : Nat
  lockedAt : Word32
  index : Option IndexRef
  consec : Nat
  lastD : Option Int
  deriving DecidableEq, Repr

/-- The sync state with the record that is present in it (section 2.1, R24). -/
inductive Sync where
  | free
  | seeking (r : SeekRecord)
  | locked (r : RefRecord)
  | lost (r : RefRecord)
  deriving DecidableEq, Repr

/-- The Reference Tracker (R22..R41). -/
structure Rft where
  sync : Sync
  cause : SyncCause
  configured : CheckSet
  inForce : CheckSet
  deriving DecidableEq, Repr

/-! ## TSU (spec 03) -/

/-- An entry of the count-timestamp history (R44). -/
structure StepTime where
  time : Word32
  dir : Dir
  deriving DecidableEq, Repr

/-- The Timebase and Speed Unit (R42..R58). -/
structure Tsu where
  timebase : Word32
  /-- whether a sample has been taken since the reset: the first sample carries the value 0 (R42) -/
  ticking : Bool
  /-- the history, NEWEST FIRST -/
  history : List StepTime
  lastDir : Option Dir
  estimate : Int
  presented : Int
  stalled : Bool
  overspeed : Bool
  depth : Nat
  stallMs : Nat
  overspeedLimit : Nat
  deriving DecidableEq, Repr

/-! ## CTS and BSC (spec 04, 06) -/

/-- Directions a window admits (R62). -/
inductive WinDir where
  | fwd
  | rev
  | both
  deriving DecidableEq, Repr

/-- A window (R60). -/
structure Window where
  on : Nat
  off : Nat
  dir : WinDir
  deriving DecidableEq, Repr

/-- One track of one bank: its window list in ascending order of `on`, and its parameters (R59, R64, R65). -/
structure TrackTable where
  windows : List Window
  leadUs : Nat
  hysteresis : Nat
  deriving DecidableEq, Repr

/-- A bank (R59). -/
structure Bank where
  tracks : Oct TrackTable
  pool : Nat
  deriving DecidableEq, Repr

/-- The Cam Table Store (R59..R81). -/
structure Cts where
  active : Bank
  shadow : Bank
  generation : Word16
  dirty : Bool
  deriving DecidableEq, Repr

/-- The policy of a pending commit, with its angle (section 6.2). -/
inductive CommitPolicy where
  | atPosition (p : Nat)
  | atIndex
  deriving DecidableEq, Repr

/-- The pending commit record (section 6.2). -/
structure Commit where
  ticket : Byte
  policy : CommitPolicy
  deriving DecidableEq, Repr

/-- The Bank Switch Controller (R105..R120). -/
structure Bsc where
  commit : Option Commit
  nextTicket : Byte
  deriving DecidableEq, Repr

/-! ## TEV (spec 05) -/

/-- Track modes (R82). -/
inductive TrackMode where
  | normal
  | forceOn
  | forceOff
  deriving DecidableEq, Repr

/-- Safe levels (R82, R93). -/
inductive SafeLevel where
  | off
  | on
  | hold
  deriving DecidableEq, Repr

/-- Polarities (R82, R95). -/
inductive Polarity where
  | activeHigh
  | activeLow
  deriving DecidableEq, Repr

/-- The hysteresis memory: change position and change direction (R82, R88). -/
structure Memory where
  position : Nat
  dir : Dir
  deriving DecidableEq, Repr

/-- The state of one track in the TEV, and its output pin (R82, R95). -/
structure Track where
  mode : TrackMode
  safe : SafeLevel
  polarity : Polarity
  stallInhibit : Bool
  evaluated : Bool
  memory : Option Memory
  inhibited : Bool
  held : Bool
  level : Bool
  switches : Word32
  /-- the last switch time; absent while the track has not switched since reset -/
  lastSwitch : Option Word32
  /-- the level of OUTn; `true` is high -/
  pin : Bool
  deriving DecidableEq, Repr

/-- The Track Evaluator (R82..R104). -/
structure Tev where
  enable : Bool
  tracks : Oct Track
  deriving DecidableEq, Repr

/-! ## LCU (spec 07) -/

/-- Edges a latch captures (R121). -/
inductive EdgeSel where
  | off
  | rise
  | fall
  | both
  deriving DecidableEq, Repr

/-- Kinds of a latch edge (R122). -/
inductive EdgeKind where
  | rise
  | fall
  deriving DecidableEq, Repr

/-- Latch modes (R121). -/
inductive LatchMode where
  | continuous
  | single
  deriving DecidableEq, Repr

/-- Arm states (R121). -/
inductive ArmState where
  | off
  | armed
  | spent
  deriving DecidableEq, Repr

/-- The state of one latch (R121). -/
structure Latch where
  edge : EdgeSel
  mode : LatchMode
  holdoffUs : Nat
  filterLen : Nat
  filter : Filter
  /-- samples of settling left; absent once settling has ended (R122) -/
  settling : Option Nat
  arm : ArmState
  /-- the timestamp of the last accepted edge while the holdoff runs (R125) -/
  holdoff : Option Word32
  lost : Word16
  suppressed : Word16
  deriving DecidableEq, Repr

/-- A capture record (R127). -/
structure Capture where
  latch : Fin 4
  edge : EdgeKind
  pos : AbsPos
  time : Word32
  referenced : Bool
  gap : Bool
  lostBefore : Byte
  generation : Word16
  deriving DecidableEq, Repr

/-- The Latch Capture Unit (R121..R140); the queue holds the oldest record first. -/
structure Lcu where
  latches : Quad Latch
  queue : List Capture
  tally : Byte
  deriving DecidableEq, Repr

/-! ## RSC (spec 08) -/

/-- The kinds of reset (section 9.6). -/
inductive ResetCause where
  | powerOn
  | pin
  | request
  deriving DecidableEq, Repr

/-- The enable set: the kinds that can be disabled (R141). -/
structure EnableSet where
  sync : Bool
  fault : Bool
  motion : Bool
  capture : Bool
  position : Bool
  deriving DecidableEq, Repr

/-- The content of the SYNC accumulator (R148). -/
structure SyncAcc where
  state : SyncState
  cause : SyncCause
  changes : Byte
  time : Word32
  deriving DecidableEq, Repr

/-- The FAULT accumulator (R149); empty while no bit is set. -/
structure FaultAcc where
  quadError : Bool
  indexError : Bool
  indexMissing : Bool
  captureLost : Bool
  deriving DecidableEq, Repr

/-- The MOTION accumulator (R150); empty while no bit is set and `reversals` is 0. -/
structure MotionAcc where
  stallEntered : Bool
  stallLeft : Bool
  overspeedEntered : Bool
  overspeedLeft : Bool
  reversals : Byte
  deriving DecidableEq, Repr

/-- A fault event (R149). -/
inductive FaultKind where
  | quadError
  | indexError
  | indexMissing
  | captureLost
  deriving DecidableEq, Repr

/-- A MOTION event (R54). -/
inductive MotionKind where
  | stallEntered
  | stallLeft
  | overspeedEntered
  | overspeedLeft
  | reversal
  deriving DecidableEq, Repr

/-- A fault event or a MOTION event on its way into its accumulator (R149, R150, R151). -/
inductive RscEvent where
  | fault (k : FaultKind)
  | motion (k : MotionKind)
  deriving DecidableEq, Repr

/-- A position snapshot (R157). -/
structure Snapshot where
  state : SyncState
  pos : AbsPos
  generation : Word16
  speed : Int
  time : Word32
  deriving DecidableEq, Repr

/-- Long operations (R33, R115). -/
inductive LongOp where
  | seek
  | commit
  deriving DecidableEq, Repr

/-- How a long operation ended (R33, R115). -/
inductive EndOutcome where
  | locked
  | failedQuad
  | failedTravel
  | aborted
  | swapped
  | cancelled
  | abandoned
  deriving DecidableEq, Repr

/-- A completion entry, with its optional position and generation (R33, R115, R153). -/
structure Completion where
  ticket : Byte
  op : LongOp
  outcome : EndOutcome
  time : Word32
  pos : Option AbsPos
  generation : Option Word16
  deriving DecidableEq, Repr

/-- The Report Scheduler (R141..R161); `waiting` holds the oldest completion first. -/
structure Rsc where
  enable : EnableSet
  intervalMs : Nat
  /-- the timestamp from which the running position-report timer measures; absent while it is stopped -/
  timer : Option Word32
  /-- the cause of the reset that made HELLO pending; absent while the flag is clear -/
  hello : Option ResetCause
  sync : Option SyncAcc
  fault : FaultAcc
  motion : MotionAcc
  position : Option Snapshot
  /-- fault and MOTION events handed to the RSC and not folded yet, oldest first: a report of their own kind may still be
  handed over before them (R151, log 29) -/
  fresh : List RscEvent
  inFlight : Nat
  waiting : List Completion
  /-- how many completions have reached the RSC since the latest sample; those of them still waiting are the newest
  entries, whose order is not settled yet (R153, log 31) -/
  recent : Nat
  credit : Nat
  seq : Byte
  deriving DecidableEq, Repr

/-! ## LKP (spec 09) -/

/-- The receiver state machine with its frame buffer (section 9.2): LEN and the bytes taken after it, and in CHECK the
high byte of the received CRC once it has been taken. -/
inductive Rx where
  | hunt
  | length
  | body (len : Byte) (buf : List Byte)
  | check (len : Byte) (buf : List Byte) (hi : Option Byte)
  deriving DecidableEq, Repr

/-- Whether the receiver takes start bits: after a reset RXD must first be high for a byte time (R162), after a break
for a bit time (R163). -/
inductive RxLine where
  | ready
  | waitByteTime
  | waitBitTime
  deriving DecidableEq, Repr

/-- A request in the inbound queue: a good frame (section 9.3). -/
structure Request where
  seq : Byte
  kind : Byte
  payload : List Byte
  crc : Word16
  deriving DecidableEq, Repr

/-- A frame of the reply queue; `resetOk` marks the OK reply to RESET whose end makes the REQUEST reset (R182). -/
structure Reply where
  frame : List Byte
  resetOk : Bool
  deriving DecidableEq, Repr

/-- An entry of the reply cache (R174). -/
structure CacheEntry where
  seq : Byte
  crc : Word16
  frame : List Byte
  deriving DecidableEq, Repr

/-- TXD: idle high for a byte time after a reset (R197); free; busy with a frame (R179); or, after the OK reply to
RESET has been sent, waiting for the reset before the line is offered again (R182). -/
inductive Tx where
  | startupIdle
  | free
  | sending (r : Reply)
  | resetDue
  deriving DecidableEq, Repr

/-- The nine link counters (R169). -/
structure LinkCounters where
  noise : Word16
  lengthErrors : Word16
  crcErrors : Word16
  byteErrors : Word16
  gapErrors : Word16
  dupAnswered : Word16
  dupDropped : Word16
  busyReplies : Word16
  busyDrops : Word16
  deriving DecidableEq, Repr

/-- The Link Port (R162..R190); every list holds the oldest first. -/
structure Lkp where
  straps : BitVec 2
  rx : Rx
  rxLine : RxLine
  gapTimer : Bool
  inbound : List Request
  replies : List Reply
  cache : List CacheEntry
  tx : Tx
  counters : LinkCounters
  resetPending : Bool
  resetCount : Word16
  resetCause : ResetCause
  deriving DecidableEq, Repr

/-! ## The sample being handled (the model's own, log 2, log 4) -/

/-- What a capture or a snapshot reads of other blocks at one moment (R127, R157). -/
structure View where
  pos : AbsPos
  sync : SyncState
  generation : Word16
  deriving DecidableEq, Repr

/-- What the QDU yields from a change of the pair at a sample: a step, or a quadrature error (R9). -/
inductive PairEvent where
  | step (d : Dir)
  | error
  deriving DecidableEq, Repr

/-- What the latest sample has found and no command has taken yet. -/
structure Sample where
  /-- the field inputs as last sampled -/
  inputs : Levels
  /-- whether the sample's evaluation is still to be made (R83) -/
  inSample : Bool
  /-- the step or the quadrature error of the sample (R9) -/
  ab : Option PairEvent
  /-- whether the TSU has taken that step, or the QDU has counted that error, while the other blocks have still to take
  it (R151, log 29) -/
  ahead : Bool
  /-- whether an event taken in the sample has changed the angle or the speed: from then on a request finds the step, the
  stall expiry and the decay of the sample taken (R48, log 34) -/
  moved : Bool
  /-- a change of filtered Z with the index input enabled; `true` is a rise (R7) -/
  z : Option Bool
  /-- latch edges the LCU has not taken yet (R122) -/
  edges : Quad (Option EdgeKind)
  /-- latch edges the RFT has not taken yet (R26, R122, log 17) -/
  refEdges : Quad (Option EdgeKind)
  /-- where a step has ended at which the pending commit arrived, while the BSC has still to take that arrival (R118) -/
  arrival : Option AbsPos
  /-- position, sync state and generation before the changes of this sample, latest first; none of a moment before the
  latest request or report (R128, R157, log 4) -/
  views : List View
  /-- how many of those changes back a capture may still read: none before the latest capture (R128, R129) -/
  reach : Nat
  deriving DecidableEq, Repr

/-! ## The whole part -/

/-- The part: its ten blocks, the reset pin, and the model's own fields (the sample being handled, the counter of free
values, and the queue of commands, oldest first). -/
structure State where
  qdu : Qdu
  pcu : Pcu
  rft : Rft
  tsu : Tsu
  cts : Cts
  bsc : Bsc
  tev : Tev
  lcu : Lcu
  rsc : Rsc
  lkp : Lkp
  nrstLow : Bool
  sample : Sample
  free : Nat
  pending : List Instr
  deriving DecidableEq, Repr

/-! ## Reset -/

/-- R21. -/
def Qdu.reset : Qdu :=
  { a := ⟨0, false⟩, b := ⟨0, false⟩, z := ⟨0, false⟩, settling := some 4, ref := none, zRef := none, quadErrors := 0 }

/-- R21, section 1.7. -/
def Pcu.reset : Pcu :=
  { axis := { cpr := 4096, countMode := .x4, invert := false, filterLen := 3, indexEnable := true }
    pos := ⟨0, 0⟩, dir := .fwd }

/-- The reset values of both index-check sets (R41). -/
def CheckSet.reset : CheckSet := { check := false, tolerance := 4, limit := 3, policy := .observe }

/-- R41. -/
def Rft.reset : Rft := { sync := .free, cause := .reset, configured := CheckSet.reset, inForce := CheckSet.reset }

/-- R58. -/
def Tsu.reset : Tsu :=
  { timebase := 0, ticking := false, history := [], lastDir := none, estimate := 0, presented := 0, stalled := true
    overspeed := false, depth := 4, stallMs := 100, overspeedLimit := 0 }

/-- An empty bank (R81). -/
def Bank.reset : Bank := { tracks := Oct.all { windows := [], leadUs := 0, hysteresis := 0 }, pool := 0 }

/-- R81. -/
def Cts.reset : Cts := { active := Bank.reset, shadow := Bank.reset, generation := 0, dirty := false }

/-- R120. -/
def Bsc.reset : Bsc := { commit := none, nextTicket := 1 }

/-- R104. -/
def Track.reset : Track :=
  { mode := .normal, safe := .off, polarity := .activeHigh, stallInhibit := false, evaluated := false, memory := none
    inhibited := true, held := false, level := false, switches := 0, lastSwitch := none, pin := false }

/-- R104. -/
def Tev.reset : Tev := { enable := false, tracks := Oct.all Track.reset }

/-- R140, and the settling of R122. -/
def Latch.reset : Latch :=
  { edge := .off, mode := .continuous, holdoffUs := 0, filterLen := 3, filter := ⟨0, false⟩, settling := some 4
    arm := .off, holdoff := none, lost := 0, suppressed := 0 }

/-- R140. -/
def Lcu.reset : Lcu := { latches := Quad.all Latch.reset, queue := [], tally := 0 }

/-- The empty FAULT accumulator (R149). -/
def FaultAcc.empty : FaultAcc := ⟨false, false, false, false⟩

/-- The empty MOTION accumulator (R150). -/
def MotionAcc.empty : MotionAcc := ⟨false, false, false, false, 0⟩

/-- R161. -/
def Rsc.reset (cause : ResetCause) : Rsc :=
  { enable := { sync := true, fault := true, motion := false, capture := false, position := false }
    intervalMs := 0, timer := none, hello := some cause, sync := none, fault := FaultAcc.empty
    motion := MotionAcc.empty, position := none, fresh := [], inFlight := 0, waiting := [], recent := 0, credit := 0
    seq := 0 }

/-- All nine link counters 0 (R169, R184). -/
def LinkCounters.zero : LinkCounters := ⟨0, 0, 0, 0, 0, 0, 0, 0, 0⟩

/-- R184, R197. -/
def Lkp.reset (cause : ResetCause) (count : Word16) (straps : BitVec 2) : Lkp :=
  { straps := straps, rx := .hunt, rxLine := .waitByteTime, gapTimer := false, inbound := [], replies := []
    cache := [], tx := .startupIdle, counters := LinkCounters.zero, resetPending := false, resetCount := count
    resetCause := cause }

/-- No sample has been taken (log 20 for the input levels). -/
def Sample.idle : Sample :=
  { inputs := ⟨false, false, false, Quad.all false⟩, inSample := false, ab := Option.none, ahead := false, moved := false
    z := Option.none, edges := Quad.all Option.none, refEdges := Quad.all Option.none, arrival := Option.none
    views := [], reach := 0 }

/-- The part right after a power-on reset with the straps at 00 (log 12): every block at its reset values. -/
def State.reset : State :=
  { qdu := Qdu.reset, pcu := Pcu.reset, rft := Rft.reset, tsu := Tsu.reset, cts := Cts.reset, bsc := Bsc.reset
    tev := Tev.reset, lcu := Lcu.reset, rsc := Rsc.reset .powerOn, lkp := Lkp.reset .powerOn 0 0
    nrstLow := false, sample := Sample.idle, free := 0, pending := [] }

end Sys2Proof.Machine
end

