-- ==== Sys2Proof/Machine/Operands.lean ====
section
/-! DEFINITION. Operand forms: the fields of request payloads read from bytes (spec 10 R192, R193), the codes of named
values (section 10.3), and fields written as bytes (R192). -/

namespace Sys2Proof.Machine

/-! ## Reading fields of a payload: little-endian, offsets from the first payload byte (R192, R193) -/

/-- A u8 field. -/
def byteAt (p : List Byte) (i : Nat) : Byte := p.getD i 0

/-- A u8 field as a number. -/
def u8At (p : List Byte) (i : Nat) : Nat := (byteAt p i).toNat

/-- A u16 field. -/
def u16At (p : List Byte) (i : Nat) : Nat := u8At p i + 256 * u8At p (i + 1)

/-- A u32 field. -/
def u32At (p : List Byte) (i : Nat) : Nat := u16At p i + 65536 * u16At p (i + 2)

/-- An s32 field, as its two's complement bits. -/
def s32At (p : List Byte) (i : Nat) : Word32 := BitVec.ofNat 32 (u32At p i)

/-- A track number 0..7. -/
def trackAt (p : List Byte) (i : Nat) : Option (Fin 8) :=
  if h : u8At p i < 8 then some ⟨u8At p i, h⟩ else none

/-- A latch number 0..3. -/
def latchAt (p : List Byte) (i : Nat) : Option (Fin 4) :=
  if h : u8At p i < 4 then some ⟨u8At p i, h⟩ else none

/-! ## Decoding named values (section 10.3); `none` is a code that is not in the table -/

/-- A field that takes no or yes, or off or on (R192). -/
def yesNo? (b : Byte) : Option Bool :=
  match b.toNat with
  | 0 => some false
  | 1 => some true
  | _ => none

/-- `count_mode`. -/
def countMode? (b : Byte) : Option CountMode :=
  match b.toNat with
  | 1 => some .x1
  | 2 => some .x2
  | 4 => some .x4
  | _ => none

/-- Window `dir`. -/
def winDir? (b : Byte) : Option WinDir :=
  match b.toNat with
  | 0 => some .fwd
  | 1 => some .rev
  | 2 => some .both
  | _ => none

/-- Seek `source`. -/
def source? (b : Byte) : Option Source :=
  match b.toNat with
  | 0 => some .index
  | 1 => some (.latch 0)
  | 2 => some (.latch 1)
  | 3 => some (.latch 2)
  | 4 => some (.latch 3)
  | _ => none

/-- Latch `edge`. -/
def edgeSel? (b : Byte) : Option EdgeSel :=
  match b.toNat with
  | 0 => some .off
  | 1 => some .rise
  | 2 => some .fall
  | 3 => some .both
  | _ => none

/-- Latch `mode`. -/
def latchMode? (b : Byte) : Option LatchMode :=
  match b.toNat with
  | 0 => some .continuous
  | 1 => some .single
  | _ => none

/-- Index `policy`. -/
def indexPolicy? (b : Byte) : Option IndexPolicy :=
  match b.toNat with
  | 0 => some .observe
  | 1 => some .correct
  | _ => none

/-- Track `mode`. -/
def trackMode? (b : Byte) : Option TrackMode :=
  match b.toNat with
  | 0 => some .normal
  | 1 => some .forceOn
  | 2 => some .forceOff
  | _ => none

/-- `safe`. -/
def safe? (b : Byte) : Option SafeLevel :=
  match b.toNat with
  | 0 => some .off
  | 1 => some .on
  | 2 => some .hold
  | _ => none

/-- `polarity`. -/
def polarity? (b : Byte) : Option Polarity :=
  match b.toNat with
  | 0 => some .activeHigh
  | 1 => some .activeLow
  | _ => none

/-- Whether a latch edge of kind `k` is selected by an edge code of section 10.3: RISE, FALL or BOTH (R26). -/
def edgeCodeSelects (code : Byte) (k : EdgeKind) : Bool :=
  match edgeSel? code, k with
  | some .rise, .rise => true
  | some .fall, .fall => true
  | some .both, _ => true
  | _, _ => false

/-! ## The kinds of requests (section 9.4) and their payload lengths (R193) -/

/-- The payload length of a request kind; `none` when the KIND is not a request code. -/
def requestLength? (kind : Byte) : Option Nat :=
  match kind.toNat with
  | 0x01 => some 0 | 0x02 => some 0 | 0x03 => some 1 | 0x04 => some 0
  | 0x08 => some 0 | 0x09 => some 8 | 0x0A => some 8 | 0x0B => some 4
  | 0x0C => some 8 | 0x0D => some 0 | 0x0E => some 0 | 0x0F => some 0
  | 0x10 => some 8 | 0x11 => some 0
  | 0x18 => some 6 | 0x19 => some 4 | 0x1A => some 1 | 0x1B => some 2
  | 0x1C => some 6 | 0x1D => some 0 | 0x1E => some 0
  | 0x20 => some 4 | 0x21 => some 0
  | 0x28 => some 1 | 0x29 => some 6 | 0x2A => some 1
  | 0x30 => some 6 | 0x31 => some 1 | 0x32 => some 1 | 0x33 => some 0
  | 0x38 => some 4 | 0x39 => some 1 | 0x3A => some 0
  | _ => none

/-! ## Writing fields (R192): little-endian -/

/-- A u8 field. -/
def le8 (n : Nat) : List Byte := [BitVec.ofNat 8 n]

/-- A u16 field. -/
def le16 (n : Nat) : List Byte := [BitVec.ofNat 8 n, BitVec.ofNat 8 (n / 256)]

/-- A u32 field. -/
def le32 (n : Nat) : List Byte :=
  [BitVec.ofNat 8 n, BitVec.ofNat 8 (n / 256), BitVec.ofNat 8 (n / 65536), BitVec.ofNat 8 (n / 16777216)]

/-- A 32-bit word: a timestamp, a switch counter or a revolution count. -/
def word32 (w : Word32) : List Byte := le32 w.toNat

/-- An s32 field. -/
def s32 (x : Int) : List Byte := word32 (BitVec.ofInt 32 x)

/-- An s16 field. -/
def s16 (x : Int) : List Byte := le16 (BitVec.ofInt 16 x).toNat

/-- A 16-bit counter or number. -/
def word16 (w : Word16) : List Byte := le16 w.toNat

/-- no/yes, off/on, 0/1. -/
def bit (b : Bool) : Byte := if b then 1 else 0

/-! ## Encoding named values (section 10.3) -/

/-- Direction. -/
def Dir.code : Dir → Byte
  | .fwd => 0
  | .rev => 1

/-- Window `dir`. -/
def WinDir.code : WinDir → Byte
  | .fwd => 0
  | .rev => 1
  | .both => 2

/-- `count_mode`. -/
def CountMode.code : CountMode → Byte
  | .x1 => 1
  | .x2 => 2
  | .x4 => 4

/-- Sync `state`. -/
def SyncState.code : SyncState → Byte
  | .free => 0
  | .seeking => 1
  | .locked => 2
  | .lost => 3

/-- Sync `cause`. -/
def SyncCause.code : SyncCause → Byte
  | .reset => 0
  | .seek => 1
  | .reference => 2
  | .travel => 3
  | .quadError => 4
  | .abort => 5
  | .release => 6
  | .indexErrors => 7

/-- Seek `source`. -/
def Source.code : Source → Byte
  | .index => 0
  | .latch n => BitVec.ofNat 8 (n.val + 1)

/-- Capture record `edge`. -/
def EdgeKind.code : EdgeKind → Byte
  | .rise => 1
  | .fall => 2

/-- Arm state. -/
def ArmState.code : ArmState → Byte
  | .off => 0
  | .armed => 1
  | .spent => 2

/-- Index `policy`. -/
def IndexPolicy.code : IndexPolicy → Byte
  | .observe => 0
  | .correct => 1

/-- Commit `policy`. -/
def CommitPolicy.code : CommitPolicy → Byte
  | .atPosition _ => 1
  | .atIndex => 2

/-- Track `mode`. -/
def TrackMode.code : TrackMode → Byte
  | .normal => 0
  | .forceOn => 1
  | .forceOff => 2

/-- `safe`. -/
def SafeLevel.code : SafeLevel → Byte
  | .off => 0
  | .on => 1
  | .hold => 2

/-- `polarity`. -/
def Polarity.code : Polarity → Byte
  | .activeHigh => 0
  | .activeLow => 1

/-- `op`. -/
def LongOp.code : LongOp → Byte
  | .seek => 0
  | .commit => 1

/-- `outcome`. -/
def EndOutcome.code : EndOutcome → Byte
  | .locked => 0
  | .failedQuad => 1
  | .failedTravel => 2
  | .aborted => 3
  | .swapped => 0x10
  | .cancelled => 0x11
  | .abandoned => 0x12

/-- Reset `cause`. -/
def ResetCause.code : ResetCause → Byte
  | .powerOn => 0
  | .pin => 1
  | .request => 2

/-- Status codes of replies (R177). -/
inductive Status where
  | ok
  | accepted
  | busy
  | badKind
  | badLength
  | badValue
  | range
  | state
  | locked
  | overlap
  | trackFull
  | poolFull
  | notFound
  | pending
  | noRoom
  | conflict
  | notPending
  deriving DecidableEq, Repr

/-- The status byte (R177). -/
def Status.code : Status → Byte
  | .ok => 0x00
  | .accepted => 0x01
  | .busy => 0x10
  | .badKind => 0x11
  | .badLength => 0x12
  | .badValue => 0x13
  | .range => 0x14
  | .state => 0x15
  | .locked => 0x16
  | .overlap => 0x17
  | .trackFull => 0x18
  | .poolFull => 0x19
  | .notFound => 0x1A
  | .pending => 0x1B
  | .noRoom => 0x1C
  | .conflict => 0x1D
  | .notPending => 0x1E

/-- What the owner of a request answers: the status, and the bytes that follow it (R177, R194). -/
structure Answer where
  status : Status
  body : List Byte
  deriving DecidableEq, Repr

end Sys2Proof.Machine
end

