-- ==== Sys2Proof/Machine/Ops.lean ====
section
/-! DEFINITION. Shared operations: counters, filters, frames and the CRC, position arithmetic, the RSC's recording of
events, and the changes that blocks hand to one another (jump, change of sync state, swap, abandonment). An operation on
the state is written as one record update, with its conditions inside the fields, so that what it leaves alone is
unchanged by definition. -/

namespace Sys2Proof.Machine

/-! ## Counters and filters -/

/-- A saturating counter stops at its largest value (spec 00, Conventions). -/
def satInc {w : Nat} (x : BitVec w) : BitVec w := if x = BitVec.allOnes w then x else x + 1

/-- One sample of an input filter of length `len` (R1). The count is first clamped to the length, which matters at the
first sample under a shorter length only (R2, R123). Where two settings fall before one sample, a shorter length and then
a longer one, the spec does not say whether the shorter still clamps; here the length in force at the sample clamps alone
(the model's choice, log 19). -/
def Filter.update (len : Nat) (level : Bool) (f : Filter) : Filter :=
  let c := min f.count len
  if level then
    let c' := if c = len then c else c + 1
    { count := c', level := if c' = len then true else f.level }
  else
    { count := c - 1, level := if c - 1 = 0 then false else f.level }

/-! ## Frames (R191) -/

/-- One shift of the CRC register. -/
def crcShift (r : Word16) : Word16 := if r.msb then (r <<< 1) ^^^ 0x1021 else r <<< 1

/-- `n` shifts of the CRC register. -/
def crcShifts : Nat → Word16 → Word16
  | 0, r => r
  | n + 1, r => crcShifts n (crcShift r)

/-- One byte taken into the CRC register. -/
def crcByte (r : Word16) (b : Byte) : Word16 := crcShifts 8 (r ^^^ (b.setWidth 16 <<< 8))

/-- The CRC over LEN, SEQ, KIND and the payload (R191). -/
def crc (bytes : List Byte) : Word16 := bytes.foldl crcByte 0xFFFF

/-- The high byte of a CRC. -/
def crcHigh (c : Word16) : Byte := (c >>> 8).setWidth 8

/-- The low byte of a CRC. -/
def crcLow (c : Word16) : Byte := c.setWidth 8

/-- A whole frame, from the sync byte to the second CRC byte (section 10.1). -/
def mkFrame (seq kind : Byte) (payload : List Byte) : List Byte :=
  let body := BitVec.ofNat 8 payload.length :: seq :: kind :: payload
  0xB7 :: body ++ [crcHigh (crc body), crcLow (crc body)]

/-! ## Time -/

/-- The time between two timestamps, modulo 2^32 (R43). -/
def elapsed (since now : Word32) : Nat := (now - since).toNat

/-! ## Position arithmetic (R10, R11, R17, R35, R87) -/

/-- The position one step further (R10). -/
def AbsPos.step (cpr : Nat) (d : Dir) (p : AbsPos) : AbsPos :=
  match d with
  | .fwd => if cpr ≤ p.angle + 1 then { rev := p.rev + 1, angle := 0 } else { p with angle := p.angle + 1 }
  | .rev => if p.angle = 0 then { rev := p.rev - 1, angle := cpr - 1 } else { p with angle := p.angle - 1 }

/-- The travel from one absolute count to another (R11). -/
def travel (cpr : Nat) (start now : AbsPos) : Int :=
  (now.rev - start.rev).toInt * (cpr : Int) + ((now.angle : Int) - (start.angle : Int))

/-- The signed circular difference of two angles, in -floor(CPR/2)..CPR-1-floor(CPR/2) (R17, R35). -/
def signedDiff (cpr angle pos : Nat) : Int :=
  let raw := ((angle : Int) - (pos : Int)) % (cpr : Int)
  if (cpr : Int) - 1 - ((cpr / 2 : Nat) : Int) < raw then raw - cpr else raw

/-- The position moved by -d across at most one wrap (R17). -/
def AbsPos.correct (cpr : Nat) (d : Int) (p : AbsPos) : AbsPos :=
  let a := (p.angle : Int) - d
  if a < 0 then { rev := p.rev - 1, angle := (a + cpr).toNat }
  else if (cpr : Int) ≤ a then { rev := p.rev + 1, angle := (a - cpr).toNat }
  else { p with angle := a.toNat }

/-- The circular distance of two angles (R87). -/
def circDist (cpr a b : Nat) : Nat := min ((a + cpr - b) % cpr) ((b + cpr - a) % cpr)

/-! ## What the RSC records (spec 08) -/

/-- Whether the kind of an event is in the enable set (R141). -/
def RscEvent.enabledIn (e : EnableSet) : RscEvent → Bool
  | .fault _ => e.fault
  | .motion _ => e.motion

/-- Fault or MOTION events are handed to the RSC, which records those of an enabled kind (R149, R150). They are folded into
their accumulators with `Rsc.taken`: at a hand-over, at a request of the RSC's own, or at the next sample (R151, log 29). -/
def Rsc.receive (es : List RscEvent) (r : Rsc) : Rsc :=
  { r with fresh := r.fresh ++ es.filter fun e => e.enabledIn r.enable }

/-- A fault event reaches the RSC (R149). -/
def Rsc.addFault (k : FaultKind) (r : Rsc) : Rsc := r.receive [.fault k]

/-- MOTION events reach the RSC (R150). -/
def Rsc.addMotions (ks : List MotionKind) (r : Rsc) : Rsc := r.receive (ks.map .motion)

/-- The SYNC accumulator with one more event (R148). -/
def syncFold (state : SyncState) (cause : SyncCause) (time : Word32) (a : Option SyncAcc) : SyncAcc :=
  { state := state, cause := cause, time := time
    changes := match a with
      | some a => satInc a.changes
      | none => 1 }

/-- The RSC records a SYNC event, where the kind is enabled, together with the change that makes it (R23, R148). -/
def Rsc.syncEvent (state : SyncState) (cause : SyncCause) (now : Word32) (r : Rsc) : Rsc :=
  { r with sync := if r.enable.sync then some (syncFold state cause now r.sync) else r.sync }

/-- The FAULT accumulator with one more bit set (R149). -/
def FaultAcc.add (k : FaultKind) (a : FaultAcc) : FaultAcc :=
  match k with
  | .quadError => { a with quadError := true }
  | .indexError => { a with indexError := true }
  | .indexMissing => { a with indexMissing := true }
  | .captureLost => { a with captureLost := true }

/-- The MOTION accumulator with one more event (R150). -/
def MotionAcc.add (a : MotionAcc) (k : MotionKind) : MotionAcc :=
  match k with
  | .stallEntered => { a with stallEntered := true }
  | .stallLeft => { a with stallLeft := true }
  | .overspeedEntered => { a with overspeedEntered := true }
  | .overspeedLeft => { a with overspeedLeft := true }
  | .reversal => { a with reversals := satInc a.reversals }

/-- One event is folded into the accumulator of its kind (R149, R150). -/
def Rsc.fold (r : Rsc) (e : RscEvent) : Rsc :=
  match e with
  | .fault k => { r with fault := r.fault.add k }
  | .motion k => { r with motion := r.motion.add k }

/-- Each event with whether it is late: bit n of `mask` says so for the n-th, if it is one of `own`. -/
def markLate (own : RscEvent → Bool) : Nat → List RscEvent → List (Bool × RscEvent)
  | _, [] => []
  | mask, e :: es => (own e && decide (mask % 2 = 1), e) :: markLate own (mask / 2) es

/-- The events that are late (`wanted`), or those that are not. -/
def Rsc.picked (own : RscEvent → Bool) (wanted : Bool) (mask : Nat) (r : Rsc) : List RscEvent :=
  ((markLate own mask r.fresh).filter fun x => x.1 == wanted).map (·.2)

/-- The RSC once it has folded its events, in the order in which they came, but for those that are late, which stay
(R151, log 29). -/
def Rsc.taken (own : RscEvent → Bool) (mask : Nat) (r : Rsc) : Rsc :=
  (r.picked own false mask).foldl Rsc.fold { r with fresh := r.picked own true mask }

/-- The RSC once it has folded all of its events. -/
def Rsc.takenAll (r : Rsc) : Rsc := r.taken (fun _ => false) 0

/-- Whether the completion list has a place for one more long operation (R152). -/
def Rsc.hasRoom (r : Rsc) : Bool := decide (r.inFlight + r.waiting.length ≤ 3)

/-- A long operation is accepted (R152). -/
def Rsc.accept (r : Rsc) : Rsc := { r with inFlight := r.inFlight + 1 }

/-- A long operation has ended: it turns from an operation in flight into a waiting entry (R152, R153). Its place among
the completions of its sample is settled by `Rsc.ordered`. -/
def Rsc.complete (c : Completion) (r : Rsc) : Rsc :=
  { r with inFlight := r.inFlight - 1, waiting := r.waiting ++ [c], recent := r.recent + 1 }

/-- A list in the order that `code` names: every order has a code, and code 0 leaves the list as it is. -/
def shuffle {α : Type} : Nat → List α → List α
  | _, [] => []
  | code, x :: xs => (shuffle (code / (xs.length + 1)) xs).insertIdx (code % (xs.length + 1)) x

/-- The RSC once the order of the completions of this sample is settled, as `code` names it: of two that reach it in one
sample either may be first (R153, log 31). -/
def Rsc.ordered (code : Nat) (r : Rsc) : Rsc :=
  let old := r.waiting.length - r.recent
  { r with waiting := r.waiting.take old ++ shuffle code (r.waiting.drop old), recent := 0 }

/-! ## Views of the sample (log 4) -/

/-- The name of the sync state (R22). -/
def Sync.state : Sync → SyncState
  | .free => .free
  | .seeking _ => .seeking
  | .locked _ => .locked
  | .lost _ => .lost

/-- What a capture or snapshot taken now reads (R127, R157). -/
def State.viewNow (s : State) : View :=
  { pos := s.pcu.pos, sync := s.rft.sync.state, generation := s.cts.generation }

/-- Within a sample, keep the view that a change is about to replace (R128, R157). -/
def State.noteView (s : State) : State :=
  { s with
    sample := { s.sample with
      views := if s.sample.inSample then s.viewNow :: s.sample.views else s.sample.views
      reach := if s.sample.inSample then s.sample.reach + 1 else s.sample.reach } }

/-- Once a request has been executed or a report handed over, nothing reads a moment before it (log 4). -/
def State.closeViews (s : State) : State := { s with sample := { s.sample with views := [], reach := 0 } }

/-- The view that many changes of the sample back; a count beyond the first view of the sample reads the present. -/
def State.viewAt (back : Nat) (s : State) : View :=
  match s.sample.views with
  | [] => s.viewNow
  | vs => (s.viewNow :: vs).getD back s.viewNow

/-- How many changes back a capture reads that asks for `back` of them: it goes no further than a capture of the same
sample before it, for captures are taken in latch order (R126, R128, R129). -/
def State.captureBack (back : Nat) (s : State) : Nat := min back s.sample.reach

/-- An event of the sample has changed the angle or the speed (R48, log 34). -/
def State.noteMove (s : State) : State := { s with sample := { s.sample with moved := true } }

/-! ## Jumps, swaps, changes of sync state -/

/-- Clear the hysteresis memory of every track (R89). -/
def Tev.clearMemories (t : Tev) : Tev := { t with tracks := t.tracks.map fun x => { x with memory := none } }

/-- A jump of the position: the direction stays, the memories are cleared, nothing is handed to the TSU or taken as an
arrival (R13). -/
def State.jump (p : AbsPos) (s : State) : State :=
  { s with pcu := { s.pcu with pos := p }, tev := s.tev.clearMemories }

/-- The CTS's part of a swap (R77). -/
def Cts.swap (c : Cts) : Cts :=
  { active := c.shadow, shadow := c.shadow, generation := c.generation + 1, dirty := false }

/-- A swap ordered by the BSC: ACTIVE takes SHADOW and the memories are cleared (R77, R89, R102). -/
def State.swap (s : State) : State :=
  { s.noteView with cts := s.cts.swap, tev := s.tev.clearMemories }

/-- The pending commit ends by a swap, at position `p` (R112, R115). -/
def State.endSwapped (c : Commit) (p : AbsPos) (s : State) : State :=
  { s.swap with
    bsc := { s.bsc with commit := none }
    rsc := s.rsc.complete
      { ticket := c.ticket, op := .commit, outcome := .swapped, time := s.tsu.timebase, pos := some p
        generation := some s.cts.swap.generation } }

/-- The BSC takes a step that ended at `p` (R110). -/
def State.bscArrive (p : AbsPos) (s : State) : State :=
  match s.bsc.commit with
  | some c =>
    match c.policy with
    | .atPosition q => if q = p.angle then s.endSwapped c p else s
    | .atIndex => s
  | none => s

/-- The BSC takes an index event, after the RFT (R111). -/
def State.bscIndex (s : State) : State :=
  match s.bsc.commit with
  | some c =>
    match c.policy with
    | .atPosition _ => s
    | .atIndex => s.endSwapped c s.pcu.pos
  | none => s

/-- The BSC takes the change of sync state: a commit pending outside LOCKED ends ABANDONED (R114, R115). -/
def State.bscLeft (s : State) : State :=
  { s with
    bsc := { s.bsc with commit := if s.rft.sync.state = .locked then s.bsc.commit else none }
    rsc :=
      if s.rft.sync.state = .locked then s.rsc
      else match s.bsc.commit with
        | some c => s.rsc.complete
            { ticket := c.ticket, op := .commit, outcome := .abandoned, time := s.tsu.timebase, pos := none
              generation := none }
        | none => s.rsc }

/-- The RFT's part of a change of sync state, handed to the RSC (R22, R23). The hand-over to the BSC is `bscLeft`. -/
def State.changeSync (new : Sync) (cause : SyncCause) (s : State) : State :=
  { s.noteView with
    rft := { s.rft with sync := new, cause := cause }
    rsc := s.rsc.syncEvent new.state cause s.tsu.timebase }

/-- A seek ends without a lock: the state becomes FREE and the RSC receives the completion (R29, R30, R31, R33). -/
def State.failSeek (r : SeekRecord) (outcome : EndOutcome) (cause : SyncCause) (s : State) : State :=
  { s.changeSync .free cause with
    rsc := (s.changeSync .free cause).rsc.complete
      { ticket := r.ticket, op := .seek, outcome := outcome, time := s.tsu.timebase, pos := none, generation := none } }

/-- The reference record that a lock makes (R27). -/
def SeekRecord.lockRecord (r : SeekRecord) (now : Word32) : RefRecord :=
  { source := r.source, refValue := r.refValue, lockedAt := now
    index := if r.source = .index then some { pos := r.refValue, last := { rev := 0, angle := r.refValue } } else none
    consec := 0, lastD := none }

/-- The lock at the reference event (R16, R27, R33). -/
def State.lock (r : SeekRecord) (s : State) : State :=
  { s.noteView.noteMove with
    pcu := { s.pcu with pos := { rev := 0, angle := r.refValue } }
    tev := s.tev.clearMemories
    rft := { s.rft with
      sync := .locked (r.lockRecord s.tsu.timebase), cause := .reference, inForce := s.rft.configured }
    rsc := (s.rsc.syncEvent .locked .reference s.tsu.timebase).complete
      { ticket := r.ticket, op := .seek, outcome := .locked, time := s.tsu.timebase
        pos := some { rev := 0, angle := r.refValue }, generation := none } }

/-- The ticket counter after an accepted long operation (R105). -/
def nextTicket (t : Byte) : Byte := if t = 255 then 1 else t + 1

end Sys2Proof.Machine
end

