-- ==== Sys2Proof/Machine/Evaluate.lean ====
section
/-! DEFINITION. The Track Evaluator's evaluation (spec 05): lead, effective position, raw level, hysteresis, track level,
pin and switching record. -/

namespace Sys2Proof.Machine

/-! ## Windows (R61..R63) -/

/-- Whether a window covers an angle (R61). -/
def Window.covers (w : Window) (a : Nat) : Bool :=
  if w.on < w.off then decide (w.on ≤ a) && decide (a < w.off) else decide (w.on ≤ a) || decide (a < w.off)

/-- Whether a window admits a direction of travel (R62). -/
def Window.admits (w : Window) (d : Dir) : Bool :=
  match w.dir, d with
  | .both, _ => true
  | .fwd, .fwd => true
  | .rev, .rev => true
  | _, _ => false

/-- Whether two windows of a track overlap (R63). -/
def Window.overlaps (u w : Window) : Bool := u.covers w.on || w.covers u.on

/-! ## What an evaluation reads (R83) -/

/-- The inputs that an evaluation reads of the other blocks, and the enable. -/
structure EvalInputs where
  cpr : Nat
  angle : Nat
  dir : Dir
  speed : Int
  stalled : Bool
  overspeed : Bool
  sync : SyncState
  enable : Bool
  now : Word32
  deriving DecidableEq, Repr

/-- The inputs as they stand (R83). -/
def State.evalInputs (s : State) : EvalInputs :=
  { cpr := s.pcu.axis.cpr, angle := s.pcu.pos.angle, dir := s.pcu.dir, speed := s.tsu.presented
    stalled := s.tsu.stalled, overspeed := s.tsu.overspeed, sync := s.rft.sync.state, enable := s.tev.enable
    now := s.tsu.timebase }

/-! ## Lead, effective position, raw level (R84..R86) -/

/-- The uncapped lead in counts (R84). -/
def uncappedLead (speed : Int) (leadUs : Nat) : Nat := speed.natAbs * leadUs / 1000000

/-- The lead in counts, capped at half a revolution (R84). -/
def leadCounts (x : EvalInputs) (tab : TrackTable) : Nat := min (uncappedLead x.speed tab.leadUs) (x.cpr / 2)

/-- LEAD_CLIPPED (R84). -/
def leadClipped (x : EvalInputs) (tab : TrackTable) : Bool := decide (x.cpr / 2 < uncappedLead x.speed tab.leadUs)

/-- The effective position (R85). -/
def effectivePosition (x : EvalInputs) (tab : TrackTable) : Nat :=
  match x.dir with
  | .fwd => (x.angle + leadCounts x tab) % x.cpr
  | .rev => (x.angle + x.cpr - leadCounts x tab) % x.cpr

/-- The index of the current window (R86). -/
def currentWindow (x : EvalInputs) (tab : TrackTable) : Option Nat :=
  tab.windows.findIdx? fun w => w.covers (effectivePosition x tab) && w.admits x.dir

/-- The raw level (R86). -/
def rawLevel (x : EvalInputs) (tab : TrackTable) : Bool :=
  tab.windows.any fun w => w.covers (effectivePosition x tab) && w.admits x.dir

/-! ## Hysteresis (R87, R88) -/

/-- The effective hysteresis (R87). -/
def effectiveHysteresis (x : EvalInputs) (tab : TrackTable) : Nat := min tab.hysteresis (x.cpr / 2)

/-- Whether a candidate change takes effect (R88). -/
def takesEffect (x : EvalInputs) (tab : TrackTable) (m : Option Memory) : Bool :=
  match m with
  | none => true
  | some m => decide (x.dir = m.dir)
      || decide (effectiveHysteresis x tab ≤ circDist x.cpr m.position (effectivePosition x tab))

/-- The evaluated level and the memory after the raw level is formed (R88). -/
def Track.hysteresis (x : EvalInputs) (tab : TrackTable) (t : Track) : Track :=
  if rawLevel x tab ≠ t.evaluated ∧ takesEffect x tab t.memory then
    { t with evaluated := rawLevel x tab
             memory := some { position := effectivePosition x tab, dir := x.dir } }
  else t

/-! ## From evaluated level to line (R90..R96) -/

/-- Track causes (R94, section 10.3). -/
inductive TrackCause where
  | disabled
  | forced
  | inhibitedSync
  | inhibitedOverspeed
  | inhibitedStall
  | evaluated
  deriving DecidableEq, Repr

/-- The code of a track cause (section 10.3). -/
def TrackCause.code : TrackCause → Byte
  | .disabled => 0
  | .forced => 1
  | .inhibitedSync => 2
  | .inhibitedOverspeed => 3
  | .inhibitedStall => 4
  | .evaluated => 5

/-- The first inhibit that applies (R92). -/
def inhibitCause (x : EvalInputs) (t : Track) : Option TrackCause :=
  if x.sync ≠ .locked then some .inhibitedSync
  else if x.overspeed then some .inhibitedOverspeed
  else if t.stallInhibit && x.stalled then some .inhibitedStall
  else none

/-- The held level at an evaluation whose inhibit condition is `c` (R93). -/
def Track.nextHeld (c : Bool) (t : Track) : Bool :=
  if c then (if t.inhibited then t.held else t.level) else false

/-- The safe level (R93). -/
def safeLevel (safe : SafeLevel) (held : Bool) : Bool :=
  match safe with
  | .off => false
  | .on => true
  | .hold => held

/-- The row of the table of section 5.6 that decides the level (R90..R94): its cause. -/
def trackCause (x : EvalInputs) (t : Track) : TrackCause :=
  if !x.enable then .disabled
  else match t.mode with
    | .forceOn => .forced
    | .forceOff => .forced
    | .normal => (inhibitCause x t).getD .evaluated

/-- The row of the table of section 5.6 that decides the level (R90..R93): its level. -/
def trackLevel (x : EvalInputs) (held : Bool) (t : Track) : Bool :=
  if !x.enable then false
  else match t.mode with
    | .forceOn => true
    | .forceOff => false
    | .normal => if (inhibitCause x t).isSome then safeLevel t.safe held else t.evaluated

/-- The level of the pin for a track level (R95). -/
def pinLevel (p : Polarity) (level : Bool) : Bool :=
  match p with
  | .activeHigh => level
  | .activeLow => !level

/-- The track after the inhibits, with its held level, level, pin and switching record (R92, R93, R95, R96). -/
def Track.output (x : EvalInputs) (t : Track) : Track :=
  let c := (inhibitCause x t).isSome
  let held := t.nextHeld c
  let level := trackLevel x held t
  { t with
    inhibited := c, held := held, level := level, pin := pinLevel t.polarity level
    switches := if level = t.level then t.switches else t.switches + 1
    lastSwitch := if level = t.level then t.lastSwitch else some x.now }

/-- The evaluation of one track (R83). -/
def Track.evaluate (x : EvalInputs) (tab : TrackTable) (t : Track) : Track := (t.hysteresis x tab).output x

/-- The evaluation of all eight tracks (R83). -/
def State.evaluate (s : State) : State :=
  { s with
    tev := { s.tev with
      tracks := Oct.zip (fun tab t => Track.evaluate s.evalInputs tab t) s.cts.active.tracks s.tev.tracks } }

/-- The level of Tn as a number, T0 in bit 0: the `levels` field of OUTPUT_ENABLE (section 10.3). -/
def Tev.levels (t : Tev) : Nat :=
  (t.tracks.toList.map (·.level)).foldr (fun b n => 2 * n + b.toNat) 0

end Sys2Proof.Machine
end

