-- ==== Sys2Proof/Machine/LatchOps.lean ====
section
/-! DEFINITION. Latch edges, holdoff, capture records and the capture queue (spec 07). -/

namespace Sys2Proof.Machine

/-- Whether the latch's `edge` selects an edge (R124). -/
def EdgeSel.selects (e : EdgeSel) (k : EdgeKind) : Bool :=
  match e, k with
  | .rise, .rise => true
  | .fall, .fall => true
  | .both, _ => true
  | _, _ => false

/-- Whether the holdoff is running at a moment (R125). -/
def Latch.holdoffRunning (now : Word32) (l : Latch) : Bool :=
  match l.holdoff with
  | some t => decide (elapsed t now < l.holdoffUs * 10)
  | none => false

/-- Whether the holdoff has come to its end and has not been stopped yet (R125). -/
def Latch.holdoffOver (now : Word32) (l : Latch) : Bool := l.holdoff.isSome && !l.holdoffRunning now

/-- What the LCU does with a latch edge, by arm state, selection and holdoff (R124). -/
inductive EdgeAction where
  | ignore
  | suppress
  | capture
  deriving DecidableEq, Repr

/-- The table of R124. -/
def Latch.action (now : Word32) (k : EdgeKind) (l : Latch) : EdgeAction :=
  match l.arm with
  | .off => .ignore
  | .spent => .ignore
  | .armed => if l.edge.selects k then (if l.holdoffRunning now then .suppress else .capture) else .ignore

/-- The latch after it has accepted an edge: the holdoff starts, and a SINGLE latch is SPENT (R125, R126). -/
def Latch.accept (now : Word32) (l : Latch) : Latch :=
  { l with
    holdoff := if l.holdoffUs = 0 then none else some now
    arm := match l.mode with
      | .single => .spent
      | .continuous => l.arm }

/-- Whether the queue has room for a record (R129). -/
def Lcu.hasRoom (c : Lcu) : Bool := decide (c.queue.length < 32)

/-- The record of a capture, with the gap that the tally marks (R127, R131). -/
def Lcu.record (n : Fin 4) (k : EdgeKind) (now : Word32) (v : View) (c : Lcu) : Capture :=
  { latch := n, edge := k, pos := v.pos, time := now, referenced := decide (v.sync = .locked)
    gap := decide (c.tally ≠ 0), lostBefore := c.tally, generation := v.generation }

/-- The LCU after an edge of latch `n` (R124..R126, R129..R131). -/
def Lcu.takeEdge (n : Fin 4) (k : EdgeKind) (now : Word32) (v : View) (c : Lcu) : Lcu :=
  let l := c.latches.get n
  match l.action now k with
  | .ignore => c
  | .suppress => { c with latches := c.latches.set n { l with suppressed := satInc l.suppressed } }
  | .capture =>
    if c.hasRoom then
      { latches := c.latches.set n (l.accept now), queue := c.queue ++ [c.record n k now v], tally := 0 }
    else
      { c with
        latches := c.latches.set n { l.accept now with lost := satInc l.lost }, tally := satInc c.tally }

/-- Whether the edge makes a capture, stored or lost (R124, R126). -/
def Lcu.captures (n : Fin 4) (k : EdgeKind) (now : Word32) (c : Lcu) : Bool :=
  decide ((c.latches.get n).action now k = .capture)

/-- Whether the edge makes a capture that is lost (R130). -/
def Lcu.losesEdge (n : Fin 4) (k : EdgeKind) (now : Word32) (c : Lcu) : Bool :=
  c.captures n k now && !c.hasRoom

/-- The LCU acts on an edge, reading the view given; a lost capture is handed to the RSC (R126, R130). -/
def State.captureEdge (n : Fin 4) (k : EdgeKind) (v : View) (s : State) : State :=
  { s with
    lcu := s.lcu.takeEdge n k s.tsu.timebase v
    rsc := if s.lcu.losesEdge n k s.tsu.timebase then s.rsc.addFault .captureLost else s.rsc }

/-- The sum of the four lost counters (R132). -/
def Lcu.lostTotal (c : Lcu) : Nat := (c.latches.toList.map fun l => l.lost.toNat).sum

/-- One sample of a latch input: the filter runs, and settling counts down (R122, R123). -/
def Latch.sample (level : Bool) (l : Latch) : Latch :=
  { l with filter := l.filter.update l.filterLen level, settling := l.settling.map fun n => n - 1 }

/-- The edge that a sample of a latch input forms: a change of filtered level after settling (R122). -/
def Latch.edgeAt (level : Bool) (l : Latch) : Option EdgeKind :=
  let f := (l.filter.update l.filterLen level).level
  match l.settling with
  | some _ => none
  | none => if f = l.filter.level then none else if f then some .rise else some .fall

end Sys2Proof.Machine
end

