-- ==== Sys2Proof/Machine/SpeedOps.lean ====
section
/-! DEFINITION. The speed estimate, decay, stall and overspeed of the TSU (spec 03). -/

namespace Sys2Proof.Machine

/-- The other direction. -/
def Dir.opposite : Dir → Dir
  | .fwd => .rev
  | .rev => .fwd

/-- The span of a list of entries, newest first: the exact sum of the consecutive intervals (R43). -/
def spanOf : List StepTime → Nat
  | a :: b :: rest => elapsed b.time a.time + spanOf (b :: rest)
  | _ => 0

/-- k, the number of entries the count estimate uses (R46). -/
def Tsu.used (t : Tsu) : Nat := min (t.depth + 1) t.history.length

/-- The span of the entries used (R46). -/
def Tsu.span (t : Tsu) : Nat := spanOf (t.history.take t.used)

/-- A magnitude with the sign of a direction (R46). -/
def signed (d : Dir) (n : Nat) : Int :=
  match d with
  | .fwd => n
  | .rev => -(n : Int)

/-- The count estimate worked out from the history held (R46). -/
def Tsu.countEstimate (t : Tsu) : Int :=
  match t.history with
  | [] => 0
  | newest :: _ => if t.used < 2 then 0 else signed newest.dir ((t.used - 1) * 10000000 / t.span)

/-- The elapsed time since the newest step; 0 with an empty history (R43). -/
def Tsu.sinceStep (t : Tsu) : Nat :=
  match t.history with
  | [] => 0
  | newest :: _ => elapsed newest.time t.timebase

/-- Whether the presented speed is formed from the elapsed time (R47). -/
def Tsu.decaying (t : Tsu) : Bool := decide (2 ≤ t.used) && decide (t.span < t.sinceStep * (t.used - 1))

/-- The presented speed of a sample with no step (R47). -/
def Tsu.decayed (t : Tsu) : Int :=
  if t.used < 2 then 0
  else if t.decaying then t.estimate.sign * (min t.estimate.natAbs (10000000 / t.sinceStep) : Nat)
  else t.estimate

/-- The OVERSPEED flag after a test against the limit (R53). -/
def Tsu.overspeedNext (t : Tsu) : Bool :=
  if t.overspeedLimit = 0 then false
  else if t.overspeed then decide (t.overspeedLimit - t.overspeedLimit / 16 < t.presented.natAbs)
  else decide (t.overspeedLimit < t.presented.natAbs)

/-- The TSU after the test of OVERSPEED (R53). -/
def Tsu.testOverspeed (t : Tsu) : Tsu := { t with overspeed := t.overspeedNext }

/-- The TSU with a new presented speed; OVERSPEED is tested when it changes (R53). -/
def Tsu.present (v : Int) (t : Tsu) : Tsu :=
  if v = t.presented then t else Tsu.testOverspeed { t with presented := v }

/-- The MOTION events of a change of OVERSPEED (R53, R54). -/
def overspeedEvents (before after : Bool) : List MotionKind :=
  match before, after with
  | false, true => [.overspeedEntered]
  | true, false => [.overspeedLeft]
  | _, _ => []

/-- Whether a step in direction `d` is a reversal (R45). -/
def Tsu.reverses (d : Dir) (t : Tsu) : Bool := decide (t.lastDir = some d.opposite)

/-- The TSU's part of a step: reversal, append, STALLED cleared, count estimate, presented speed (R44..R46, R51). -/
def Tsu.step (d : Dir) (t : Tsu) : Tsu :=
  let kept := if t.reverses d then [] else t.history
  let t1 : Tsu := { t with
    history := ({ time := t.timebase, dir := d } :: kept).take 9, lastDir := some d, stalled := false }
  Tsu.present t1.countEstimate { t1 with estimate := t1.countEstimate }

/-- The TSU enters a stall (R50). -/
def Tsu.stall (t : Tsu) : Tsu := Tsu.present 0 { t with history := [], estimate := 0, stalled := true }

/-- Whether the stall time has expired (R50). -/
def Tsu.stallExpired (t : Tsu) : Bool :=
  !t.stalled && !t.history.isEmpty && decide (t.stallMs * 10000 ≤ t.sinceStep)

/-- The state after the TSU has taken a step, with the MOTION events handed to the RSC (R54). -/
def State.tsuStep (d : Dir) (s : State) : State :=
  { s with
    tsu := s.tsu.step d
    rsc := s.rsc.addMotions
      ((if s.tsu.stalled then [.stallLeft] else []) ++ (if s.tsu.reverses d then [.reversal] else [])
        ++ overspeedEvents s.tsu.overspeed (s.tsu.step d).overspeed) }

/-- The state after a stall has been entered (R50, R54). -/
def State.enterStall (s : State) : State :=
  { s with
    tsu := s.tsu.stall
    rsc := s.rsc.addMotions (.stallEntered :: overspeedEvents s.tsu.overspeed s.tsu.stall.overspeed) }

/-- The state after the decay test of a sample with no step (R47, R53). -/
def State.decay (s : State) : State :=
  { s with
    tsu := s.tsu.present s.tsu.decayed
    rsc := s.rsc.addMotions (overspeedEvents s.tsu.overspeed (s.tsu.present s.tsu.decayed).overspeed) }

/-- The state after new speed settings have been acted on, in the order of R55. -/
def State.setSpeed (depth stallMs overspeedLimit : Nat) (s : State) : State :=
  let t1 : Tsu := { s.tsu with depth := depth, stallMs := stallMs, overspeedLimit := overspeedLimit }
  let t2 : Tsu := { t1 with estimate := t1.countEstimate }
  let t3 := Tsu.testOverspeed { t2 with presented := t2.decayed }
  let s1 : State := { s with tsu := t3, rsc := s.rsc.addMotions (overspeedEvents s.tsu.overspeed t3.overspeed) }
  if t3.stallExpired then s1.enterStall else s1

end Sys2Proof.Machine
end

