-- ==== Sys2Proof/Machine/Events.lean ====
section
/-! DEFINITION. The events of one sample: which of them the sample has formed and nobody has taken yet, what taking each
of them does, and the evaluation that ends the sample (R9, R83; log 2, log 3, log 4). -/

namespace Sys2Proof.Machine

/-! ## Decoding the pair (R4..R6) -/

/-- A change of the filtered (A, B) pair, old and new (R4). -/
structure PairChange where
  old : Pair
  new : Pair
  deriving DecidableEq, Repr

/-- The phase number of a pair: P0, P1, P2, P3 (section 1.2). -/
def Pair.phase (p : Pair) : Nat :=
  match p.a, p.b with
  | false, false => 0
  | true, false => 1
  | true, true => 2
  | false, true => 3

/-- Whether both levels change (R6). -/
def PairChange.isError (c : PairChange) : Bool := (c.old.a != c.new.a) && (c.old.b != c.new.b)

/-- Whether the count mode counts a change of one level (R4). -/
def PairChange.counted (mode : CountMode) (c : PairChange) : Bool :=
  match mode with
  | .x4 => true
  | .x2 => c.old.a != c.new.a
  | .x1 => (c.old.a != c.new.a) && !c.old.b

/-- The direction of a change of one level before inversion: the forward cycle is P0, P1, P2, P3, P0 (section 1.2). -/
def PairChange.rawDir (c : PairChange) : Dir := if c.new.phase = (c.old.phase + 1) % 4 then .fwd else .rev

/-- The step that a change yields, after inversion; none for an error or an uncounted change (R4, R5, R6). -/
def PairChange.stepDir (axis : AxisConfig) (c : PairChange) : Option Dir :=
  if c.old = c.new || c.isError || !c.counted axis.countMode then none
  else some (if axis.invert then c.rawDir.opposite else c.rawDir)

/-- What the QDU yields from a change of the pair: an error, a step, or nothing for an uncounted change (R4, R6, R9). -/
def PairChange.event (axis : AxisConfig) (c : PairChange) : Option PairEvent :=
  if c.isError then some .error else (c.stepDir axis).map .step

/-! ## What is due in the sample -/

/-- The step of the sample, while it has not been taken (R4, R9). -/
def State.stepDue (s : State) : Option Dir :=
  match s.sample.ab with
  | some (.step d) => if s.sample.inSample then some d else none
  | some .error => none
  | none => none

/-- Whether the quadrature error of the sample has not been taken (R6). -/
def State.quadDue (s : State) : Bool := s.sample.inSample && decide (s.sample.ab = some .error)

/-- The direction that index forming uses: after the step of the sample (R7). -/
def State.indexDir (s : State) : Dir := s.stepDue.getD s.pcu.dir

/-- Whether the sample forms an index event that has not been taken (R7). -/
def State.indexFormed (s : State) : Bool :=
  match s.sample.z with
  | some rise => s.sample.inSample && (decide (s.indexDir = .fwd) == rise)
  | none => false

/-- Whether the index event is next in its order: after the step and after the quadrature error of its sample (R9,
R28). -/
def State.indexDue (s : State) : Bool := s.indexFormed && s.stepDue.isNone && !s.quadDue

/-- The lowest-numbered latch whose edge the LCU has not taken (R129). -/
def State.lowestEdge (s : State) : Option (Fin 4) :=
  if s.sample.edges.l0.isSome then some 0
  else if s.sample.edges.l1.isSome then some 1
  else if s.sample.edges.l2.isSome then some 2
  else if s.sample.edges.l3.isSome then some 3
  else none

/-- The latch whose edge is next in its order: after the step (R12), in latch order (R129). -/
def State.edgeDue (s : State) : Option (Fin 4) :=
  if s.sample.inSample && s.stepDue.isNone then s.lowestEdge else none

/-- Whether the RFT has still to take the edge of a latch: after the step (R12, R26). -/
def State.refDue (s : State) (n : Fin 4) : Bool :=
  s.sample.inSample && s.stepDue.isNone && (s.sample.refEdges.get n).isSome

/-- Whether the part of a latch edge that `turn` names has still to be taken and its turn has come. -/
def State.latchTurn (n : Fin 4) (turn : EdgeTurn) (s : State) : Bool :=
  match turn with
  | .both _ => decide (s.edgeDue = some n)
  | .rft => s.refDue n
  | .lcu _ => decide (s.edgeDue = some n)

/-- Whether the stall time has expired at this sample (R50, R52). -/
def State.stallDue (s : State) : Bool := s.sample.inSample && s.tsu.stallExpired

/-- Whether the decay test of this sample lowers the presented speed; only at a sample with no step (R47). -/
def State.decayDue (s : State) : Bool :=
  s.sample.inSample && s.stepDue.isNone && decide (s.tsu.decayed ≠ s.tsu.presented)

/-- Whether a latch's holdoff ends at this sample (R125). -/
def State.holdoffDue (n : Fin 4) (s : State) : Bool :=
  s.sample.inSample && (s.lcu.latches.get n).holdoffOver s.tsu.timebase

/-- Whether encoder settling ends at this sample (R3). -/
def State.settlingDue (s : State) : Bool := s.sample.inSample && decide (s.qdu.settling = some 0)

/-- Whether a latch filter's settling ends at this sample (R122). -/
def State.latchSettlingDue (n : Fin 4) (s : State) : Bool :=
  s.sample.inSample && decide ((s.lcu.latches.get n).settling = some 0)

/-- Whether the position-report timer has expired at this sample (R157). -/
def State.timerExpired (s : State) : Bool :=
  match s.rsc.timer with
  | some t => s.sample.inSample && s.rsc.enable.position && decide (s.rsc.intervalMs ≠ 0)
      && decide (s.rsc.intervalMs * 10000 ≤ elapsed t s.tsu.timebase)
  | none => false

/-- Whether the snapshot is next in its order: it reads the position after the step and the speed of the sample
(R157). -/
def State.timerDue (s : State) : Bool := s.timerExpired && s.stepDue.isNone && !s.stallDue && !s.decayDue

/-! ## Taking the events -/

/-- At the last sample of settling the filtered levels become the decoder's references (R3). -/
def State.takeSettlingEnd (s : State) : State :=
  { s with
    qdu := { s.qdu with
      settling := none, ref := some { a := s.qdu.a.level, b := s.qdu.b.level }, zRef := some s.qdu.z.level } }

/-- A latch filter ends settling (R122). -/
def State.takeLatchSettlingEnd (n : Fin 4) (s : State) : State :=
  { s with
    lcu := { s.lcu with latches := s.lcu.latches.set n { s.lcu.latches.get n with settling := none } } }

/-- A latch's holdoff stops running (R125). -/
def State.takeHoldoffEnd (n : Fin 4) (s : State) : State :=
  { s with
    lcu := { s.lcu with latches := s.lcu.latches.set n { s.lcu.latches.get n with holdoff := none } } }

/-- An index error: the count rises, the RSC receives the fault event, and at the limit the state becomes LOST (R36).
The hand-over of that change to the BSC is made by the caller (R117). -/
def State.indexError (k : FaultKind) (r : RefRecord) (s : State) : State :=
  let r' := { r with consec := r.consec + 1 }
  let s1 : State := { s with rft := { s.rft with sync := .locked r' }, rsc := s.rsc.addFault k }
  if s.rft.inForce.limit ≤ r'.consec then s1.changeSync (.lost r') .indexErrors else s1

/-- Whether this sample carries the reference event of the seek (R26, R29). -/
def State.referenceEventDue (r : SeekRecord) (s : State) : Bool :=
  match r.source with
  | .index => s.indexFormed
  | .latch n =>
    match s.sample.refEdges.get n with
    | some k => s.sample.inSample && edgeCodeSelects r.edgeCode k
    | none => false

/-- The last index moved by one revolution in the direction of the travel (R37). -/
def IndexRef.miss (t : Int) (ix : IndexRef) : IndexRef :=
  { ix with last := { ix.last with rev := if 0 < t then ix.last.rev + 1 else ix.last.rev - 1 } }

/-- The RFT's part of a step: the travel check of a seek (R29), or missing-index detection (R37). -/
def State.rftStep (s : State) : State :=
  match s.rft.sync with
  | .seeking r =>
    if r.travelLimit ≠ 0 ∧ r.travelLimit < (travel s.pcu.axis.cpr r.start s.pcu.pos).natAbs
        ∧ s.referenceEventDue r = false then
      s.failSeek r .failedTravel .travel
    else s
  | .locked r =>
    match r.index with
    | some ix =>
      if s.rft.inForce.check = true
          ∧ s.pcu.axis.cpr + s.rft.inForce.tolerance < (travel s.pcu.axis.cpr ix.last s.pcu.pos).natAbs then
        s.indexError .indexMissing { r with index := some (ix.miss (travel s.pcu.axis.cpr ix.last s.pcu.pos)) }
      else s
    | none => s
  | .free => s
  | .lost _ => s

/-- The BSC takes an arrival that was kept for after the index event (R118). -/
def State.bscArriveKept (p : Option AbsPos) (s : State) : State :=
  match p with
  | some p => s.bscArrive p
  | none => s

/-- The TSU's part of a step, unless it has gone ahead (R44, R151, log 29). -/
def State.stepSpeed (d : Dir) (s : State) : State := if s.sample.ahead then s else s.tsuStep d

/-- The PCU's and the TSU's part of a step; from here on the sample's views are those after its step (R10, R12, R44). -/
def State.applyStep (d : Dir) (s : State) : State :=
  { s.stepSpeed d with
    pcu := { s.pcu with pos := s.pcu.pos.step s.pcu.axis.cpr d, dir := d }
    sample := { s.sample with ab := none, ahead := false, moved := true, views := [], reach := 0 } }

/-- Whether a step that ends at `p` is the arrival of the pending commit (R110). -/
def State.arrivesAt (p : AbsPos) (s : State) : Bool :=
  match s.bsc.commit with
  | some c => decide (c.policy = .atPosition p.angle)
  | none => false

/-- The RFT's and the BSC's part of a step, in the order `turn` names (R29, R37, R110, R117, R118). An arrival that the
BSC takes after the index event of the sample is kept for the commit that is pending at the step. Where the step both
arrives and loses the lock, with the arrival taken first, the rules do not say whether the RFT is LOST already when the
swap is made (R128): both are modelled, `beforeLoss` and `afterRft` (log 4). A loss at a step comes before the index event
of its sample, also for a pending AT_INDEX commit, which is abandoned here: R117 does not name that case and R23 has the
change handed on before any later event; that no index event of the sample may be taken before it is the model's choice
(log 32). -/
def State.handStep (turn : ArrivalTurn) (s : State) : State :=
  let p := s.pcu.pos
  match turn with
  | .beforeLoss => (s.bscArrive p).rftStep.bscLeft
  | .afterRft => (s.rftStep.bscArrive p).bscLeft
  | .afterLoss => s.rftStep.bscLeft.bscArrive p
  | .afterIndex =>
    let s1 := s.rftStep.bscLeft
    if s1.indexFormed then
      { s1 with sample := { s1.sample with arrival := if s1.arrivesAt p then some p else none } }
    else s1.bscArrive p

/-- A step in direction `d` (R4, R9). -/
def State.takeStep (d : Dir) (turn : ArrivalTurn) (s : State) : State := (s.applyStep d).handStep turn

/-- STEP: the TSU alone goes ahead with the step, or the step is taken (R151, log 4). No rule says whether a request may
execute between the two; in the model one that does first takes the rest of the step (`State.pairSpeed`; R48, log 34). -/
def State.takeStepTurn (d : Dir) (turn : StepTurn) (s : State) : State :=
  match turn with
  | .speed => { s.stepSpeed d with sample := { s.sample with ahead := true, moved := true } }
  | .take turn => s.takeStep d turn

/-- The RFT's part of a quadrature error (R30). -/
def State.rftQuad (s : State) : State :=
  match s.rft.sync with
  | .seeking r => s.failSeek r .failedQuad .quadError
  | .locked r => s.changeSync (.lost r) .quadError
  | .free => s
  | .lost _ => s

/-- The in-force set is loaded from the configured set; a load that turns checking off clears the count (R39). -/
def State.loadChecks (r : RefRecord) (s : State) : RefRecord :=
  if s.rft.inForce.check && !s.rft.configured.check then { r with consec := 0 } else r

/-- An index event taken in LOCKED, with the in-force set just loaded (R34, R35). -/
def State.indexLocked (r : RefRecord) (s : State) : State :=
  match r.index with
  | none =>
    { s with
      rft := { s.rft with
        sync := .locked { r with index := some { pos := s.pcu.pos.angle, last := s.pcu.pos } } } }
  | some ix =>
    if s.rft.inForce.check = false then
      { s with rft := { s.rft with sync := .locked { r with index := some { ix with last := s.pcu.pos } } } }
    else
      let d := signedDiff s.pcu.axis.cpr s.pcu.pos.angle ix.pos
      if d.natAbs ≤ s.rft.inForce.tolerance then
        let s1 :=
          if s.rft.inForce.policy = .correct ∧ d ≠ 0 then
            s.noteView.noteMove.jump (s.pcu.pos.correct s.pcu.axis.cpr d)
          else s
        { s1 with
          rft := { s.rft with
            sync := .locked { r with
              consec := 0, lastD := some d, index := some { ix with last := s1.pcu.pos } } } }
      else
        s.indexError .indexError { r with lastD := some d, index := some { ix with last := s.pcu.pos } }

/-- The RFT's part of an index event (R26, R34, R35, R38, R39). -/
def State.rftIndex (s : State) : State :=
  match s.rft.sync with
  | .seeking r => if r.source = .index then s.lock r else s
  | .locked r =>
    State.indexLocked (s.loadChecks r)
      { s with rft := { s.rft with inForce := s.rft.configured, sync := .locked (s.loadChecks r) } }
  | .free => s
  | .lost _ => s

/-- An index event: the RFT, then the BSC, which takes the index event (with an arrival kept for after it) and a change
to LOST in the order `turn` names (R8, R111, R117, R118). -/
def State.takeIndexEvent (turn : LossTurn) (s : State) : State :=
  let kept := s.sample.arrival
  let s1 := State.rftIndex { s with sample := { s.sample with z := none, arrival := none } }
  match turn with
  | .eventFirst => (s1.bscIndex.bscArriveKept kept).bscLeft
  | .lossFirst => s1.bscLeft.bscIndex.bscArriveKept kept

/-- A quadrature error with the index event of its sample, where there is one: the RFT has handled both when the BSC
takes the index event (R28, R111), and in FREE or LOST, which the error leaves, it does nothing with it (R38). -/
def State.quadWithIndex (s : State) : State :=
  if s.indexFormed then State.bscIndex { s.rftQuad with sample := { s.rftQuad.sample with z := none } } else s.rftQuad

/-- The QDU's part of a quadrature error, unless it has gone ahead (R6, R151, log 29). -/
def State.countQuad (s : State) : State :=
  if s.sample.ahead then s
  else { s with qdu := { s.qdu with quadErrors := satInc s.qdu.quadErrors }, rsc := s.rsc.addFault .quadError }

/-- A quadrature error (R6, R30). The RFT takes it before an index event of the same sample (R28); the BSC may take that
index event before the change to LOST, and the index event is then taken with the error (R117, log 4). -/
def State.takeQuadError (turn : LossTurn) (s : State) : State :=
  let s1 : State := { s.countQuad with sample := { s.sample with ab := none, ahead := false } }
  match turn with
  | .eventFirst => s1.quadWithIndex.bscLeft
  | .lossFirst => s1.rftQuad.bscLeft

/-- QUAD_ERROR: the QDU alone goes ahead with the error, or the error is taken (R151, log 4). -/
def State.takeQuadTurn (turn : QuadTurn) (s : State) : State :=
  match turn with
  | .count => { s.countQuad with sample := { s.sample with ahead := true } }
  | .take turn => s.takeQuadError turn

/-- The RFT takes the edge of latch `n`: where it is the reference event of the seek, it locks (R26, R27, log 17). -/
def State.takeRefEdge (n : Fin 4) (s : State) : State :=
  let s1 : State := { s with sample := { s.sample with refEdges := s.sample.refEdges.set n none } }
  match s.rft.sync with
  | .seeking r => if r.source = .latch n ∧ s.referenceEventDue r = true then s1.lock r else s1
  | .locked _ => s1
  | .free => s1
  | .lost _ => s1

/-- The LCU takes the edge of latch `n`, reading the view `back` changes before the present, but none before the latest
capture of the sample (R122, R126, R128, R129). -/
def State.takeLcuEdge (n : Fin 4) (back : Nat) (s : State) : State :=
  match s.sample.edges.get n with
  | some k =>
    State.captureEdge n k (s.viewAt (s.captureBack back))
      { s with sample := { s.sample with
        edges := s.sample.edges.set n none
        reach := if s.lcu.captures n k s.tsu.timebase then s.captureBack back else s.sample.reach } }
  | none => s

/-- The edge of latch `n`: the RFT's part, the LCU's part, or the one and then the other (R122, R128, log 17). -/
def State.takeLatchEdge (n : Fin 4) (turn : EdgeTurn) (s : State) : State :=
  match turn with
  | .both back => (s.takeRefEdge n).takeLcuEdge n back
  | .rft => s.takeRefEdge n
  | .lcu back => s.takeLcuEdge n back

/-- The snapshot of a position-report timer's expiry, which starts the timer again (R157). -/
def State.takeTimer (back : Nat) (s : State) : State :=
  let v := s.viewAt back
  { s with
    rsc := { s.rsc with
      position := some
        { state := v.sync, pos := v.pos, generation := v.generation, speed := s.tsu.presented, time := s.tsu.timebase }
      timer := some s.tsu.timebase } }

/-! ## The end of the sample -/

/-- Whether an event of the sample is still to be taken. -/
def State.anyDue (s : State) : Bool :=
  s.settlingDue || s.latchSettlingDue 0 || s.latchSettlingDue 1 || s.latchSettlingDue 2 || s.latchSettlingDue 3
    || s.holdoffDue 0 || s.holdoffDue 1 || s.holdoffDue 2 || s.holdoffDue 3
    || s.stepDue.isSome || s.quadDue || s.indexDue || s.edgeDue.isSome
    || s.refDue 0 || s.refDue 1 || s.refDue 2 || s.refDue 3 || s.stallDue || s.decayDue || s.timerDue

/-- The evaluation that ends the sample (R83). -/
def State.endSample (s : State) : State :=
  { s.evaluate with sample := { s.sample with inSample := false } }

/-- End the sample once all of its events have been taken (R83). -/
def State.settle (s : State) : State := if s.sample.inSample && !s.anyDue then s.endSample else s

/-- An event of a sample. -/
inductive FieldEvent where
  | settlingEnd
  | latchSettlingEnd (n : Fin 4)
  | holdoffEnd (n : Fin 4)
  | step
  | quadError
  | indexEvent
  | refEdge (n : Fin 4)
  | lcuEdge (n : Fin 4)
  | stall
  | decay
  | timer
  deriving DecidableEq, Repr

/-- The first latch of which a predicate holds. -/
def firstLatch (p : Fin 4 → Bool) : Option (Fin 4) :=
  if p 0 then some 0 else if p 1 then some 1 else if p 2 then some 2 else if p 3 then some 3 else none

/-- The next taking of a latch edge: the LCU's in latch order (R129), the RFT's at a moment and in an order that are free
(R128, log 3). -/
def State.nextLatchEvent (s : State) : Option FieldEvent :=
  match (Config.refEdge s.free).filter s.refDue, s.edgeDue with
  | some m, _ => some (.refEdge m)
  | none, some n => some (.lcuEdge n)
  | none, none => (firstLatch s.refDue).map .refEdge

/-- The next event among a quadrature error, an index event and the latch edges; where an encoder event and a latch edge
both wait, either may be first (R28): a free choice (log 3). -/
def State.nextFieldEvent (s : State) : Option FieldEvent :=
  let enc : Option FieldEvent :=
    if s.quadDue then some .quadError else if s.indexDue then some .indexEvent else none
  match enc, s.nextLatchEvent with
  | some e, some l => if Config.latchFirst s.free then some l else some e
  | some e, none => some e
  | none, l => l

/-- The next event among the step, the stall expiry and the decay, step and stall expiry in a free order (R52, log 3). -/
def State.nextSpeedEvent (s : State) : Option FieldEvent :=
  match s.stepDue, s.stallDue with
  | some _, true => if Config.stallFirst s.free then some .stall else some .step
  | some _, false => some .step
  | none, true => some .stall
  | none, false => if s.decayDue then some .decay else none

/-- The event of the sample that is taken next where no command says (log 3): those that meet nothing first; then step,
stall expiry and decay; then the encoder events and latch edges, and the snapshot. -/
def State.nextEvent (s : State) : Option FieldEvent :=
  if s.settlingDue then some .settlingEnd
  else match firstLatch fun n => s.latchSettlingDue n with
  | some n => some (.latchSettlingEnd n)
  | none =>
    match firstLatch fun n => s.holdoffDue n with
    | some n => some (.holdoffEnd n)
    | none =>
      match s.nextSpeedEvent with
      | some e => some e
      | none =>
        match s.nextFieldEvent with
        | some e => some e
        | none => if s.timerDue then some .timer else none

/-- The arrival's turn where no command says: free while a commit is pending (R117, R118), else without effect. -/
def State.freeArrivalTurn (s : State) : ArrivalTurn :=
  if s.bsc.commit.isSome then Config.arrivalTurn s.free else .beforeLoss

/-- The loss's turn where no command says: free while a commit is pending (R117), else without effect. -/
def State.freeLossTurn (s : State) : LossTurn :=
  if s.bsc.commit.isSome then Config.lossTurn s.free else .lossFirst

/-- The view where no command says: free (R128, R157). -/
def State.freeView (s : State) : Nat := Config.viewBack s.free

/-- Take one event of the sample with its free choices. -/
def State.takeEvent (e : FieldEvent) (s : State) : State :=
  let s1 : State := { s with free := s.free + 1 }
  match e with
  | .settlingEnd => s1.takeSettlingEnd
  | .latchSettlingEnd n => s1.takeLatchSettlingEnd n
  | .holdoffEnd n => s1.takeHoldoffEnd n
  | .step => match s.stepDue with
    | some d => s1.takeStep d s.freeArrivalTurn
    | none => s1
  | .quadError => s1.takeQuadError s.freeLossTurn
  | .indexEvent => s1.takeIndexEvent s.freeLossTurn
  | .refEdge n => s1.takeRefEdge n
  | .lcuEdge n => s1.takeLcuEdge n s.freeView
  | .stall => s1.enterStall.noteMove
  | .decay => s1.decay.noteMove
  | .timer => s1.takeTimer s.freeView

/-- Take up to `n` events of the sample that no command has taken, as `next` names them. -/
def State.drainBy (next : State → Option FieldEvent) : Nat → State → State
  | 0, s => s
  | n + 1, s =>
    match next s with
    | some e => State.drainBy next n (s.takeEvent e)
    | none => s

/-- Take up to `n` events of the sample that no command has taken. -/
def State.drain (n : Nat) (s : State) : State := State.drainBy State.nextEvent n s

/-- The most events one sample can hold: settling, four latch settlings, four holdoffs, step or error, index event, four
latch edges taken twice each, stall, decay, snapshot. -/
def maxSampleEvents : Nat := 24

/-- Before the next sample is taken, the events of the present one are all taken and the tracks are evaluated (R9, R83,
R97). -/
def State.closeSample (s : State) : State :=
  if s.sample.inSample then (State.drain maxSampleEvents s).endSample else s

/-- Whether the step, the stall expiry or the decay of the sample is still to be taken (R48). -/
def State.speedDue (s : State) : Bool := s.stepDue.isSome || s.stallDue || s.decayDue

/-- The step, the stall expiry and the decay of the sample are taken, for a request that reads the position or the speed
after them (R12, R48, log 30). A quadrature error of the sample is not: no rule says whether AXIS_GET counts it (R20), so
the order of QUAD_ERROR and AXIS_GET decides, which is the model's choice (log 30). -/
def State.catchUp (s : State) : State :=
  if s.speedDue then (State.drainBy State.nextSpeedEvent maxSampleEvents s).settle else s

/-- The state in which a request executes: once an event of the sample has changed the angle or the speed, the events that
change the other come first, so that the tracks are evaluated with the speed, the angle and the direction of one sample
(R48). Before that the request is one that goes before the sample's step (R15, R100). No rule says when, within a sample,
a request may execute; that it executes after those events and does not wait is the model's choice (log 33, log 34). -/
def State.pairSpeed (s : State) : State := if s.sample.moved then s.catchUp else s

/-! ## Taking a sample (R1, R3, R4, R7, R42, R122) -/

/-- The QDU's filters at one sample; settling counts down, or the references follow (R1, R3, R4, R7). -/
def Qdu.sample (len : Nat) (lv : Levels) (q : Qdu) : Qdu :=
  let a := q.a.update len lv.qa
  let b := q.b.update len lv.qb
  let z := q.z.update len lv.qz
  match q.settling with
  | some n => { q with a := a, b := b, z := z, settling := some (n - 1) }
  | none => { q with a := a, b := b, z := z, ref := some { a := a.level, b := b.level }, zRef := some z.level }

/-- The change of the filtered pair that a sample after settling finds (R4). -/
def Qdu.pairChange (before after : Qdu) : Option PairChange :=
  match before.settling, before.ref, after.ref with
  | none, some old, some new => if old = new then none else some { old := old, new := new }
  | _, _, _ => none

/-- The change of filtered Z that a sample after settling finds while the index input is enabled (R7). -/
def Qdu.zChange (enabled : Bool) (before after : Qdu) : Option Bool :=
  match before.settling, before.zRef, after.zRef with
  | none, some old, some new => if enabled && (old != new) then some new else none
  | _, _, _ => none

/-- The timebase at the next sample: it rises by one, but the first sample after a reset carries 0 (R42). -/
def Tsu.tick (t : Tsu) : Tsu := { t with timebase := if t.ticking then t.timebase + 1 else t.timebase, ticking := true }

/-- One sample of all inputs: the timebase, the filters, and what the sample finds (R1, R9, R42, R122). The change of the
pair is decoded with the axis configuration of this moment (R9, log 15). The RSC has taken the events of the sample
before (log 29), and its completions stand in an order that is free (R153, log 31). -/
def State.sampleInputs (lv : Levels) (s : State) : State :=
  let q := s.qdu.sample s.pcu.axis.filterLen lv
  { s with
    tsu := s.tsu.tick
    qdu := q
    lcu := { s.lcu with latches := Quad.zip (fun l level => Latch.sample level l) s.lcu.latches lv.lt }
    rsc := s.rsc.takenAll.ordered (Config.completionOrder s.free)
    free := s.free + 1
    sample :=
      { inputs := lv, inSample := true, ab := (s.qdu.pairChange q).bind (PairChange.event s.pcu.axis)
        ahead := false, moved := false, z := s.qdu.zChange s.pcu.axis.indexEnable q
        edges := Quad.zip (fun l level => Latch.edgeAt level l) s.lcu.latches lv.lt
        refEdges := Quad.zip (fun l level => Latch.edgeAt level l) s.lcu.latches lv.lt
        arrival := none, views := [], reach := 0 } }

/-- A sample: the one before it is closed first, and a sample that finds nothing to do is evaluated at once (R83). -/
def State.takeSample (lv : Levels) (s : State) : State := (s.closeSample.sampleInputs lv).settle

end Sys2Proof.Machine
end

