-- ==== Sys2Proof/Machine/Flags.lean ====
section
/-! DEFINITION. Flag bytes and sets of kinds (spec 10 section 10.3), and which report kinds are pending and sendable
(spec 08 R141, R142). -/

namespace Sys2Proof.Machine

/-- Bits as a number, bit 0 first. -/
def bitsValue (bs : List Bool) : Nat := bs.foldr (fun b n => 2 * n + b.toNat) 0

/-- A flag byte, bit 0 first; undefined bits are 0 (R192). -/
def flagByte (bs : List Bool) : Byte := BitVec.ofNat 8 (bitsValue bs)

/-- The report kinds (section 8.1). -/
inductive ReportKind where
  | hello
  | sync
  | fault
  | done
  | motion
  | capture
  | position
  deriving DecidableEq, Repr

/-- The code of a report kind (section 8.1). -/
def ReportKind.code : ReportKind → Byte
  | .hello => 0x70
  | .sync => 0x71
  | .fault => 0x72
  | .done => 0x73
  | .motion => 0x74
  | .capture => 0x75
  | .position => 0x76

/-- The kinds in order of priority, highest first (R141). -/
def reportPriority : List ReportKind := [.hello, .sync, .fault, .done, .motion, .capture, .position]

/-- Whether a kind is pending (R141). -/
def State.kindPending (s : State) : ReportKind → Bool
  | .hello => s.rsc.hello.isSome
  | .sync => s.rsc.sync.isSome
  | .fault => decide (s.rsc.fault ≠ FaultAcc.empty)
  | .done => !s.rsc.waiting.isEmpty
  | .motion => decide (s.rsc.motion ≠ MotionAcc.empty)
  | .capture => s.rsc.enable.capture && !s.lcu.queue.isEmpty
  | .position => s.rsc.position.isSome

/-- Whether a kind is sendable: HELLO needs no credit (R142). -/
def State.kindSendable (s : State) (k : ReportKind) : Bool :=
  s.kindPending k && (decide (k = .hello) || decide (1 ≤ s.rsc.credit))

/-- The sendable kind with the highest priority (R142). -/
def State.topSendable (s : State) : Option ReportKind := reportPriority.find? fun k => s.kindSendable k

/-- The set of pending kinds as a byte: bit n is the kind 0x70 + n (section 10.3). -/
def State.pendingByte (s : State) : Byte := flagByte (reportPriority.map s.kindPending)

/-- An enable set as a byte (section 10.3). -/
def EnableSet.code (e : EnableSet) : Byte := flagByte [false, e.sync, e.fault, false, e.motion, e.capture, e.position]

/-- An enable set read from a byte; bits 0, 3 and 7 are refused (R158, section 10.3). -/
def enableSet? (b : Byte) : Option EnableSet :=
  if b &&& 0x89 = 0 then
    some { sync := b.getLsbD 1, fault := b.getLsbD 2, motion := b.getLsbD 4, capture := b.getLsbD 5
           position := b.getLsbD 6 }
  else none

/-- The FAULT bits. -/
def FaultAcc.code (a : FaultAcc) : Byte := flagByte [a.quadError, a.indexError, a.indexMissing, a.captureLost]

/-- The MOTION bits. -/
def MotionAcc.code (a : MotionAcc) : Byte :=
  flagByte [a.stallEntered, a.stallLeft, a.overspeedEntered, a.overspeedLeft]

/-- The `flags` of STATUS (R186). -/
def State.statusFlags (s : State) : Byte :=
  flagByte [s.tsu.stalled, s.tsu.overspeed, s.tev.enable, s.bsc.commit.isSome, decide (s.rft.sync.state = .seeking)]

/-- The `flags` of SPEED_GET (R57). -/
def State.speedFlags (s : State) : Byte :=
  flagByte [s.tsu.stalled, s.tsu.overspeed, s.tsu.lastDir.isSome, s.tsu.decaying]

/-- The `levels` of AXIS_GET (R20). -/
def Qdu.levels (q : Qdu) : Byte := flagByte [q.a.level, q.b.level, q.z.level]

/-- The `present` byte of SYNC_STATUS (R40). -/
def RefRecord.present (r : RefRecord) : Byte := flagByte [r.index.isSome, r.lastD.isSome]

/-- The `flags` of TRACK_STATUS (R101). -/
def Track.flags (clipped : Bool) (t : Track) : Byte :=
  flagByte [clipped, t.memory.isSome, t.inhibited, t.lastSwitch.isSome, false, (t.memory.map (·.dir)) = some .rev]

/-- The `flags` of a capture record entry (R196). -/
def Capture.flags (c : Capture) : Byte := flagByte [c.referenced, c.gap]

/-- The `flags` of a DONE report (R195). -/
def Completion.flags (c : Completion) : Byte := flagByte [c.pos.isSome, c.generation.isSome]

end Sys2Proof.Machine
end

