-- ==== Sys2Proof/Machine/LinkOps.lean ====
section
/-! DEFINITION. The Link Port's receiver, admission, queues and transmitter (spec 09), and the hand-over of reports
(spec 08 R143, spec 10 R195). -/

namespace Sys2Proof.Machine

/-! ## Replies and the transmitter (R178, R179) -/

/-- The arbiter starts the oldest reply when TXD is free (R179). -/
def Lkp.startReply (k : Lkp) : Lkp :=
  match k.tx, k.replies with
  | .free, r :: rest => { k with tx := .sending r, replies := rest }
  | _, _ => k

/-- A frame enters the reply queue; on a free line its transmission begins at once (R178, R179). -/
def Lkp.placeReply (r : Reply) (k : Lkp) : Lkp := Lkp.startReply { k with replies := k.replies ++ [r] }

/-- The last stop bit of a frame has been sent: TXD becomes free and the oldest reply begins; after the OK reply to
RESET the line is not offered before the reset (R179, R182). -/
def Lkp.endTransmission (k : Lkp) : Lkp :=
  match k.tx with
  | .sending r => if r.resetOk then { k with tx := .resetDue } else Lkp.startReply { k with tx := .free }
  | .startupIdle => k
  | .free => k
  | .resetDue => k

/-- The kind of a reply: the request's KIND plus 0x80, or 0xFF when it is no request code (R173, R177). -/
def replyKind (kind : Byte) : Byte := if (requestLength? kind).isSome then kind + 0x80 else 0xFF

/-- The reply frame to a request (R177, R194). -/
def replyFrame (r : Request) (a : Answer) : List Byte := mkFrame r.seq (replyKind r.kind) (a.status.code :: a.body)

/-! ## Admission (R170..R173) -/

/-- A BUSY reply (R173). -/
def busyReply (r : Request) : Reply :=
  { frame := replyFrame r ⟨.busy, if (requestLength? r.kind).isSome then [] else [r.kind]⟩, resetOk := false }

/-- Admission of a good frame (R170, R171, R172). -/
def Lkp.admitFrame (r : Request) (k : Lkp) : Lkp :=
  match k.cache.find? fun e => decide (e.seq = r.seq) && decide (e.crc = r.crc) with
  | some e =>
    if k.replies.length < 6 then
      Lkp.placeReply { frame := e.frame, resetOk := false }
        { k with counters := { k.counters with dupAnswered := satInc k.counters.dupAnswered } }
    else { k with counters := { k.counters with busyDrops := satInc k.counters.busyDrops } }
  | none =>
    if k.inbound.any fun q => decide (q.seq = r.seq) && decide (q.crc = r.crc) then
      { k with counters := { k.counters with dupDropped := satInc k.counters.dupDropped } }
    else if k.inbound.length < 4 then { k with inbound := k.inbound ++ [r] }
    else if k.replies.length < 6 then
      Lkp.placeReply (busyReply r)
        { k with counters := { k.counters with busyReplies := satInc k.counters.busyReplies } }
    else { k with counters := { k.counters with busyDrops := satInc k.counters.busyDrops } }

/-! ## The receiver state machine (R164..R168) -/

/-- The receiver returns to HUNT, where no gap timer runs (R164). -/
def Lkp.toHunt (k : Lkp) : Lkp := { k with rx := .hunt, gapTimer := false }

/-- The request that a frame buffer holds: SEQ, KIND, payload (R166). -/
def requestOf (buf : List Byte) (c : Word16) : Request :=
  { seq := buf.getD 0 0, kind := buf.getD 1 0, payload := buf.drop 2, crc := c }

/-- The two received CRC bytes, high byte first (R166). -/
def receivedCrc (hi lo : Byte) : Word16 := hi ++ lo

/-- The second CRC byte (R166). -/
def Lkp.checkCrc (len : Byte) (buf : List Byte) (c : Word16) (k : Lkp) : Lkp :=
  if c = crc (len :: buf) then k.toHunt.admitFrame (requestOf buf c)
  else { k.toHunt with counters := { k.counters with crcErrors := satInc k.counters.crcErrors } }

/-- A good byte (R164, R165, R166). -/
def Lkp.rxGood (b : Byte) (k : Lkp) : Lkp :=
  match k.rx with
  | .hunt =>
    if b = 0xB7 then { k with rx := .length, gapTimer := true }
    else { k with counters := { k.counters with noise := satInc k.counters.noise } }
  | .length =>
    if b.toNat ≤ 240 then { k with rx := .body b [], gapTimer := true }
    else { k.toHunt with counters := { k.counters with lengthErrors := satInc k.counters.lengthErrors } }
  | .body len buf =>
    if buf.length + 1 = len.toNat + 2 then { k with rx := .check len (buf ++ [b]) none, gapTimer := true }
    else { k with rx := .body len (buf ++ [b]), gapTimer := true }
  | .check len buf none => { k with rx := .check len buf (some b), gapTimer := true }
  | .check len buf (some hi) => k.checkCrc len buf (receivedCrc hi b)

/-- A framing error or a break (R164, R167). -/
def Lkp.rxError (k : Lkp) : Lkp :=
  if k.rx = .hunt then { k with counters := { k.counters with noise := satInc k.counters.noise } }
  else { k.toHunt with counters := { k.counters with byteErrors := satInc k.counters.byteErrors } }

/-- A byte event on RXD. The receiver takes it only while it takes start bits; a break makes it wait until RXD has been
high for a bit time (R162, R163). -/
def Lkp.receive (e : ByteEvent) (k : Lkp) : Lkp :=
  if k.rxLine = .ready then
    match e with
    | .good b => k.rxGood b
    | .framing => k.rxError
    | .lineBreak => { k.rxError with rxLine := .waitBitTime }
  else k

/-- A gap expiry: inside a frame the frame is discarded; in HUNT no timer runs (R168). -/
def Lkp.gapExpired (k : Lkp) : Lkp :=
  if k.rx = .hunt then k
  else { k.toHunt with counters := { k.counters with gapErrors := satInc k.counters.gapErrors } }

/-! ## Reports (R143, R195, R196) -/

/-- A capture record entry of 16 bytes (R196). -/
def Capture.bytes (c : Capture) : List Byte :=
  [BitVec.ofNat 8 c.latch.val, c.edge.code, c.flags, c.lostBefore] ++ le16 c.pos.angle ++ word16 c.generation
    ++ word32 c.pos.rev ++ word32 c.time

/-- The records that a CAPTURE report takes (R156). -/
def Lcu.reportRecords (c : Lcu) : List Capture := c.queue.take 4

/-- The payload of a HELLO report (R147, R195). -/
def State.helloPayload (s : State) : List Byte :=
  (match s.rsc.hello with
    | some c => [c.code]
    | none => [0]) ++ le8 Config.revision ++ word16 s.lkp.resetCount ++ le16 Config.family

/-- The payload of a SYNC report (R148, R195). -/
def State.syncPayload (s : State) : List Byte :=
  match s.rsc.sync with
  | some a => [a.state.code, a.cause.code, a.changes, 0] ++ word32 a.time
  | none => List.replicate 8 0

/-- The payload of a FAULT report (R149, R195). -/
def State.faultPayload (s : State) : List Byte :=
  [s.rsc.fault.code, 0] ++ word16 s.qdu.quadErrors ++ le32 s.lcu.lostTotal

/-- The payload of a DONE report that carries an entry (R154, R195). -/
def Completion.payload (c : Completion) : List Byte :=
  [c.ticket, c.op.code, c.outcome.code, c.flags] ++ word32 c.time
    ++ (match c.pos with
      | some p => le16 p.angle
      | none => le16 0)
    ++ (match c.generation with
      | some g => word16 g
      | none => le16 0)
    ++ (match c.pos with
      | some p => word32 p.rev
      | none => le32 0)

/-- The payload of a MOTION report (R150, R195). -/
def State.motionPayload (s : State) : List Byte :=
  [s.rsc.motion.code, s.rsc.motion.reversals, flagByte [s.tsu.stalled, s.tsu.overspeed], 0] ++ s32 s.tsu.presented

/-- The payload of a CAPTURE report (R156, R195). -/
def State.capturePayload (s : State) : List Byte :=
  le8 s.lcu.reportRecords.length ++ le8 (s.lcu.queue.length - s.lcu.reportRecords.length)
    ++ (s.lcu.reportRecords.map Capture.bytes).flatten

/-- The payload of a POSITION report that carries a snapshot (R157, R195). -/
def Snapshot.payload (n : Snapshot) : List Byte :=
  [n.state.code, 0] ++ le16 n.pos.angle ++ word16 n.generation ++ word32 n.pos.rev ++ s32 n.speed ++ word32 n.time

/-- The content of a report of a kind at this moment (R143). -/
def State.reportPayload (s : State) : ReportKind → List Byte
  | .hello => s.helloPayload
  | .sync => s.syncPayload
  | .fault => s.faultPayload
  | .done => match s.rsc.waiting with
    | c :: _ => c.payload
    | [] => List.replicate 16 0
  | .motion => s.motionPayload
  | .capture => s.capturePayload
  | .position => match s.rsc.position with
    | some n => n.payload
    | none => List.replicate 18 0

/-- The RSC after a hand-over: credit spent, source emptied, sequence counter advanced (R143). -/
def Rsc.handOver (k : ReportKind) (r : Rsc) : Rsc :=
  { r with
    credit := if k = .hello then r.credit else r.credit - 1
    hello := if k = .hello then none else r.hello
    sync := if k = .sync then none else r.sync
    fault := if k = .fault then FaultAcc.empty else r.fault
    waiting := if k = .done then r.waiting.tail else r.waiting
    motion := if k = .motion then MotionAcc.empty else r.motion
    position := if k = .position then none else r.position
    seq := r.seq + 1 }

/-- The hand-over of a report of kind `k`, whose transmission begins (R143, R179). -/
def State.handOverKind (k : ReportKind) (s : State) : State :=
  { s with
    rsc := s.rsc.handOver k
    lcu := { s.lcu with queue := if k = .capture then s.lcu.queue.drop 4 else s.lcu.queue }
    lkp := { s.lkp with
      tx := .sending { frame := mkFrame s.rsc.seq k.code (s.reportPayload k), resetOk := false } } }

/-- The state in which the RSC has folded all of its events (R149, R150). -/
def State.takeReports (s : State) : State := { s with rsc := s.rsc.takenAll }

/-- Whether an event belongs to a kind of report (R149, R150). -/
def ReportKind.takes (k : ReportKind) (e : RscEvent) : Bool :=
  match k, e with
  | .fault, .fault _ => true
  | .motion, .motion _ => true
  | _, _ => false

/-- Whether a kind that folds fault or MOTION events has its accumulator empty (R149, R150). -/
def Rsc.nothingFor (k : ReportKind) (r : Rsc) : Bool :=
  match k with
  | .fault => decide (r.fault = FaultAcc.empty)
  | .motion => decide (r.motion = MotionAcc.empty)
  | _ => false

/-- The RSC as a report of kind `k` finds it: an event of that kind which `mask` names comes only after the hand-over, as
long as the report then has something to carry; every other event is folded (R142, R151, log 29). -/
def Rsc.beforeReport (k : ReportKind) (mask : Nat) (r : Rsc) : Rsc :=
  if (r.taken k.takes mask).nothingFor k then r.takenAll else r.taken k.takes mask

/-- The state in which a report of kind `k` is handed over: which of its own events come before it is free (R151, log 29).
What a capture or the snapshot of the sample reads from now on is not before this moment (log 4). -/
def State.beforeHandOver (k : ReportKind) (s : State) : State :=
  { s.closeViews with rsc := s.rsc.beforeReport k (Config.lateEvents s.free), free := s.free + 1 }

/-- A DONE report takes the oldest entry of the list, so its hand-over settles the order of the completions of this
sample, which is free (R153, R154, log 31). -/
def State.orderFor (k : ReportKind) (s : State) : State :=
  { s with rsc := if k = .done then s.rsc.ordered (Config.completionOrder s.free) else s.rsc }

/-- While TXD is free and the reply queue is empty, the sendable report of the highest priority is handed over; every event
that has come makes its kind pending (R142). -/
def State.grantLine (s : State) : State :=
  if s.lkp.tx = .free ∧ s.lkp.replies = [] then
    match s.takeReports.topSendable with
    | some k => ((s.beforeHandOver k).orderFor k).handOverKind k
    | none => s
  else s

end Sys2Proof.Machine
end

