-- ==== Sys2Proof/Machine/RequestOps.lean ====
section
/-! DEFINITION. The execution of the oldest request of the inbound queue (spec 09 R174..R177), as the request rows share
it, and the wrapper that keeps a part held in reset as it is (R181). -/

namespace Sys2Proof.Machine

/-- The outcome of one command. -/
abbrev Out := Host.Outcome State Fault Refusal

/-- A command of a part that runs. While NRST is low the part is held in reset: inputs are not read and every block
holds its reset state, so the command changes nothing (R181). -/
def live (f : State → State) (s : State) : Out := .next (if s.nrstLow then s else f s)

/-- What the owner of a request does with its payload: the new state, with the tracks evaluated (R83), and the answer. -/
abbrev Owner := State → List Byte → State × Answer

/-- A refused request changes no state of its owner; the tracks are evaluated (R83, R176). -/
def refuse (st : Status) (s : State) : State × Answer := (s.evaluate, ⟨st, []⟩)

/-- A request carried out: the state after its effect is evaluated (R83). -/
def carryOut (st : Status) (body : List Byte) (s : State) : State × Answer := (s.evaluate, ⟨st, body⟩)

/-- A request carried out whose answer shows the state after the evaluation (R98, R99, R101). -/
def carryOutShow (body : State → List Byte) (s : State) : State × Answer := (s.evaluate, ⟨.ok, body s.evaluate⟩)

/-- The reply cache with one more entry; a fifth entry removes the oldest (R174). -/
def cacheAdd (e : CacheEntry) (c : List CacheEntry) : List CacheEntry := (if c.length < 4 then c else c.drop 1) ++ [e]

/-- The reply enters the reply queue and the cache entry is added (R174, R175, R178). The reply of the execution that
has marked a REQUEST reset is the one whose end makes the reset (R182). What a capture or the snapshot of the sample
reads from now on is not before this moment (log 4). -/
def State.reply (r : Request) (a : Answer) (s : State) : State :=
  { s with
    lkp := Lkp.placeReply { frame := replyFrame r a, resetOk := s.lkp.resetPending }
      { s.lkp with cache := cacheAdd { seq := r.seq, crc := r.crc, frame := replyFrame r a } s.lkp.cache }
    sample := s.closeViews.sample }

/-- Whether the LKP executes a request now (R175). -/
def Lkp.executes (k : Lkp) : Bool := decide (k.replies.length ≤ 4) && !k.resetPending

/-- The state in which the owner finds the request: it has left the inbound queue (R175). -/
def State.takeRequest (rest : List Request) (s : State) : State := { s with lkp := { s.lkp with inbound := rest } }

/-- The length check, then the owner (R176). -/
def checkLength (owner : Owner) (r : Request) (s : State) : State × Answer :=
  if requestLength? r.kind = some r.payload.length then owner s r.payload else refuse .badLength s

/-- Execute the oldest request, if it is one of this row, by what `act` does with it (R175). The tracks are evaluated there,
also between two events of one sample: R83, R100 and R102 set a request against a whole sample, and that one may execute
between its events is the model's choice (log 33); where one of these has changed the angle or the speed, those that
change the other are taken first (R48, log 34). -/
def State.execute (accepts : Request → Bool) (act : Request → State → State × Answer) (s : State) : State :=
  match s.lkp.inbound with
  | r :: rest =>
    if s.lkp.executes && accepts r then
      let out := act r (s.pairSpeed.takeRequest rest)
      (State.reply r out.2 out.1).settle
    else s
  | [] => s

/-- The row of one request kind. -/
def State.executeKind (kind : Byte) (owner : Owner) (s : State) : State :=
  s.execute (fun r => decide (r.kind = kind)) (checkLength owner)

/-- Whether the oldest request is of one kind, with the length of its kind, and the LKP executes it (R175, R176). -/
def State.offersKind (kind : Byte) (s : State) : Bool :=
  match s.lkp.inbound with
  | r :: _ => s.lkp.executes && decide (r.kind = kind) && decide (requestLength? kind = some r.payload.length)
  | [] => false

/-- The row of a request that reads the position or the speed: it finds the step, the stall expiry and the decay of every
sample taken before it (R12, R48, log 30). -/
def State.executeAfterStep (kind : Byte) (owner : Owner) (s : State) : State :=
  if s.offersKind kind then s.catchUp.executeKind kind owner else s.executeKind kind owner

end Sys2Proof.Machine
end

