-- ==== Sys2Proof/Machine/Axis.lean ====
section
/-! DEFINITION. The axis requests (spec 01 R14, R18..R20). -/

namespace Sys2Proof.Machine

/-- The AXIS_GET fields (R20, R194). -/
def State.axisBody (s : State) : List Byte :=
  le32 s.pcu.axis.cpr ++ [s.pcu.axis.countMode.code, bit s.pcu.axis.invert] ++ le8 s.pcu.axis.filterLen
    ++ [bit s.pcu.axis.indexEnable] ++ le16 s.pcu.pos.angle ++ [s.pcu.dir.code, s.qdu.levels] ++ word32 s.pcu.pos.rev
    ++ word16 s.qdu.quadErrors

/-- AXIS_GET's owner (R20). -/
def ownAxisGet : Owner := fun s _ => carryOut .ok s.axisBody s

/-- AXIS_GET (R12, R20). -/
def execAxisGet (s : State) : Out := live (State.executeAfterStep 0x08 ownAxisGet) s

/-- Whether a bank holds a window at or beyond a CPR (R18, R80). -/
def Bank.conflicts (cpr : Nat) (b : Bank) : Bool :=
  b.tracks.toList.any fun t => t.windows.any fun w => decide (cpr ≤ w.on) || decide (cpr ≤ w.off)

/-- The effect of an accepted AXIS_SET: the five values, and the zeroing of the position by a jump (R19). -/
def State.setAxis (a : AxisConfig) (s : State) : State :=
  State.jump { rev := 0, angle := 0 } { s with pcu := { s.pcu with axis := a } }

/-- AXIS_SET's owner: the checks of R18 in their order, then R19. -/
def ownAxisSet : Owner := fun s p =>
  if u32At p 0 < 8 ∨ 65536 < u32At p 0 ∨ 15 < u8At p 6 then refuse .range s
  else
    match countMode? (byteAt p 4), yesNo? (byteAt p 5), yesNo? (byteAt p 7) with
    | some mode, some invert, some enable =>
      if s.rft.sync.state ≠ .free then refuse .state s
      else if s.cts.active.conflicts (u32At p 0) || s.cts.shadow.conflicts (u32At p 0) then refuse .conflict s
      else
        carryOut .ok []
          (s.setAxis
            { cpr := u32At p 0, countMode := mode, invert := invert, filterLen := u8At p 6, indexEnable := enable })
    | _, _, _ => refuse .badValue s

/-- AXIS_SET (R18, R19). After a sample it comes after the step of that sample, which was decoded with the configuration
before it; an AXIS_SET taken first comes before the sample (R15, log 15). -/
def execAxisSet (s : State) : Out := live (State.executeAfterStep 0x09 ownAxisSet) s

/-- POSITION_SET's owner (R14). -/
def ownPositionSet : Owner := fun s p =>
  if s.pcu.axis.cpr ≤ u16At p 0 then refuse .range s
  else if byteAt p 2 ≠ 0 ∨ byteAt p 3 ≠ 0 then refuse .badValue s
  else if s.rft.sync.state ≠ .free then refuse .state s
  else carryOut .ok [] (s.jump { rev := s32At p 4, angle := u16At p 0 })

/-- POSITION_SET (R14). -/
def execPositionSet (s : State) : Out := live (State.executeKind 0x0A ownPositionSet) s

end Sys2Proof.Machine
end

