-- ==== Sys2Proof/Machine/Commits.lean ====
section
/-! DEFINITION. COMMIT under its three policies, and COMMIT_CANCEL (spec 06 R107..R109, R113). The three COMMIT rows
share the request code 0x20; a row executes the COMMIT whose `policy` byte names it, and each of them a COMMIT that is
malformed (log 8). -/

namespace Sys2Proof.Machine

/-- Whether a COMMIT row with this policy code executes a request (log 8). -/
def isCommitOf (policy : Nat) (r : Request) : Bool :=
  decide (r.kind = 0x20)
    && (decide (r.payload.length ≠ 4) || decide (u8At r.payload 0 = policy) || decide (2 < u8At r.payload 0))

/-- COMMIT NOW's owner (R107, R108). -/
def ownCommitNow : Owner := fun s p =>
  if u8At p 0 ≠ 0 ∨ byteAt p 1 ≠ 0 then refuse .badValue s
  else if s.bsc.commit.isSome then refuse .pending s
  else carryOut .ok (word16 s.swap.cts.generation) s.swap

/-- COMMIT_NOW (R107, R108). -/
def execCommitNow (s : State) : Out := live (State.execute (isCommitOf 0) (checkLength ownCommitNow)) s

/-- The effect of an accepted position-policy COMMIT (R105, R106, R109). A step made before it is no arrival of it (R110,
R199). -/
def State.startCommit (policy : CommitPolicy) (s : State) : State :=
  { s with
    bsc := { commit := some { ticket := s.bsc.nextTicket, policy := policy }, nextTicket := nextTicket s.bsc.nextTicket }
    rsc := s.rsc.accept
    sample := { s.sample with arrival := none } }

/-- The checks of R109 that both position policies share, and the acceptance. -/
def commitLater (policy : CommitPolicy) (s : State) : State × Answer :=
  if s.rft.sync.state ≠ .locked then refuse .state s
  else if policy = .atIndex ∧ s.pcu.axis.indexEnable = false then refuse .state s
  else if s.bsc.commit.isSome then refuse .pending s
  else if s.rsc.hasRoom = false then refuse .noRoom s
  else carryOut .accepted [s.bsc.nextTicket] (s.startCommit policy)

/-- COMMIT AT_POSITION's owner (R107, R109). -/
def ownCommitAtPosition : Owner := fun s p =>
  if u8At p 0 = 1 ∧ s.pcu.axis.cpr ≤ u16At p 2 then refuse .range s
  else if u8At p 0 ≠ 1 ∨ byteAt p 1 ≠ 0 then refuse .badValue s
  else commitLater (.atPosition (u16At p 2)) s

/-- COMMIT_AT_POSITION (R107, R109). -/
def execCommitAtPosition (s : State) : Out := live (State.execute (isCommitOf 1) (checkLength ownCommitAtPosition)) s

/-- COMMIT AT_INDEX's owner (R107, R109). -/
def ownCommitAtIndex : Owner := fun s p =>
  if u8At p 0 ≠ 2 ∨ byteAt p 1 ≠ 0 then refuse .badValue s else commitLater .atIndex s

/-- COMMIT_AT_INDEX (R107, R109). -/
def execCommitAtIndex (s : State) : Out := live (State.execute (isCommitOf 2) (checkLength ownCommitAtIndex)) s

/-- The effect of a COMMIT_CANCEL of a pending commit (R113, R115). -/
def State.cancelCommit (c : Commit) (s : State) : State :=
  { s with
    bsc := { s.bsc with commit := none }
    rsc := s.rsc.complete
      { ticket := c.ticket, op := .commit, outcome := .cancelled, time := s.tsu.timebase, pos := none
        generation := none } }

/-- COMMIT_CANCEL's owner (R113). -/
def ownCommitCancel : Owner := fun s _ =>
  match s.bsc.commit with
  | some c => carryOut .ok [c.ticket, c.policy.code] (s.cancelCommit c)
  | none => refuse .notPending s

/-- COMMIT_CANCEL (R113). -/
def execCommitCancel (s : State) : Out := live (State.executeKind 0x21 ownCommitCancel) s

end Sys2Proof.Machine
end

