-- ==== Sys2Proof/Machine/Device.lean ====
section
/-! DEFINITION. The device and link requests, and requests of unknown kind (spec 09 R176, R177, R182, R185..R187). -/

namespace Sys2Proof.Machine

/-- BAD_KIND (R177): the reply has kind 0xFF and carries the offending KIND. -/
def execBadKind (s : State) : Out :=
  live (State.execute (fun r => (requestLength? r.kind).isNone) fun r s => carryOut .badKind [r.kind] s) s

/-- The IDENTIFY fields (R185, R194). -/
def State.identifyBody (s : State) : List Byte :=
  le16 Config.vendor ++ le16 Config.family ++ le8 Config.revision ++ le8 8 ++ le8 4 ++ le8 16 ++ le8 64 ++ le8 32
    ++ word16 s.lkp.resetCount ++ [s.lkp.resetCause.code]

/-- IDENTIFY's owner (R185). -/
def ownIdentify : Owner := fun s _ => carryOut .ok s.identifyBody s

/-- IDENTIFY (R185). -/
def execIdentify (s : State) : Out := live (State.executeKind 0x01 ownIdentify) s

/-- The STATUS fields (R186, R194). -/
def State.statusBody (s : State) : List Byte :=
  [s.rft.sync.state.code, s.statusFlags] ++ le16 s.pcu.pos.angle ++ word16 s.cts.generation
    ++ le8 s.lcu.queue.length ++ le8 s.rsc.credit ++ word32 s.pcu.pos.rev ++ s32 s.tsu.presented

/-- STATUS's owner (R186). -/
def ownStatus : Owner := fun s _ => carryOut .ok s.statusBody s

/-- STATUS (R12, R48, R186). -/
def execStatus (s : State) : Out := live (State.executeAfterStep 0x02 ownStatus) s

/-- The nine counters in the order of R169 (R187, R194). -/
def LinkCounters.bytes (c : LinkCounters) : List Byte :=
  word16 c.noise ++ word16 c.lengthErrors ++ word16 c.crcErrors ++ word16 c.byteErrors ++ word16 c.gapErrors
    ++ word16 c.dupAnswered ++ word16 c.dupDropped ++ word16 c.busyReplies ++ word16 c.busyDrops

/-- The LINK_STATUS fields; the request has left the inbound queue and its reply has not entered (R187). -/
def State.linkBody (s : State) : List Byte :=
  s.lkp.counters.bytes ++ le8 s.lkp.inbound.length ++ le8 s.lkp.replies.length ++ le8 s.lkp.cache.length
    ++ le8 s.lkp.straps.toNat

/-- LINK_STATUS's owner (R187). -/
def ownLinkStatus : Owner := fun s p =>
  match yesNo? (byteAt p 0) with
  | none => refuse .badValue s
  | some clear =>
    carryOut .ok s.linkBody
      { s with lkp := { s.lkp with counters := if clear then LinkCounters.zero else s.lkp.counters } }

/-- LINK_STATUS (R187). -/
def execLinkStatus (s : State) : Out := live (State.executeKind 0x03 ownLinkStatus) s

/-- RESET's owner: a REQUEST reset is pending (R182). -/
def ownReset : Owner := fun s _ => carryOut .ok [] { s with lkp := { s.lkp with resetPending := true } }

/-- RESET (R182). -/
def execReset (s : State) : Out := live (State.executeKind 0x04 ownReset) s

end Sys2Proof.Machine
end

