-- ==== Sys2Proof/Machine/Field.lean ====
section
/-! DEFINITION. The field side: samples, settling and the events of a sample (spec 01, 03, 07, 08). A command takes the
event it names when the sample has formed it and its turn has come; otherwise it changes nothing (log 2). When the last
event of the sample has been taken, the tracks are evaluated (R83). -/

namespace Sys2Proof.Machine

/-- SAMPLE: a tick; every input is sampled (R1, R42). -/
def execSample (levels : Levels) (s : State) : Out := live (fun s => s.takeSample levels) s

/-- SETTLING_END (R3). -/
def execSettlingEnd (s : State) : Out :=
  live (fun s => if s.settlingDue then s.takeSettlingEnd.settle else s) s

/-- LATCH_SETTLING_END (R122). -/
def execLatchSettlingEnd (latch : Fin 4) (s : State) : Out :=
  live (fun s => if s.latchSettlingDue latch then (s.takeLatchSettlingEnd latch).settle else s) s

/-- STEP (R4, R10, R44). -/
def execStep (turn : StepTurn) (s : State) : Out :=
  live (fun s => match s.stepDue with
    | some d => (s.takeStepTurn d turn).settle
    | none => s) s

/-- QUAD_ERROR (R6, R30). -/
def execQuadError (turn : QuadTurn) (s : State) : Out :=
  live (fun s => if s.quadDue then (s.takeQuadTurn turn).settle else s) s

/-- INDEX_EVENT (R7, R8). -/
def execIndexEvent (turn : LossTurn) (s : State) : Out :=
  live (fun s => if s.indexDue then (s.takeIndexEvent turn).settle else s) s

/-- LATCH_EDGE: the RFT's part, the LCU's part, or both (R26, R122, R124). -/
def execLatchEdge (latch : Fin 4) (turn : EdgeTurn) (s : State) : Out :=
  live (fun s => if s.latchTurn latch turn then (s.takeLatchEdge latch turn).settle else s) s

/-- STALL_EXPIRY (R50). -/
def execStallExpiry (s : State) : Out := live (fun s => if s.stallDue then s.enterStall.noteMove.settle else s) s

/-- SPEED_DECAY (R47). -/
def execSpeedDecay (s : State) : Out := live (fun s => if s.decayDue then s.decay.noteMove.settle else s) s

/-- HOLDOFF_END (R125). -/
def execHoldoffEnd (latch : Fin 4) (s : State) : Out :=
  live (fun s => if s.holdoffDue latch then (s.takeHoldoffEnd latch).settle else s) s

/-- POSITION_TIMER_EXPIRY (R157). -/
def execPositionTimerExpiry (view : Nat) (s : State) : Out :=
  live (fun s => if s.timerDue then (s.takeTimer view).settle else s) s

end Sys2Proof.Machine
end

