-- ==== Sys2Proof/Machine/Latches.lean ====
section
/-! DEFINITION. The latch requests (spec 07 R133..R137). -/

namespace Sys2Proof.Machine

/-- One latch replaced. -/
def State.setLatch (n : Fin 4) (l : Latch) (s : State) : State :=
  { s with lcu := { s.lcu with latches := s.lcu.latches.set n l } }

/-- A latch after an accepted LATCH_SET (R134). -/
def Latch.configure (edge : EdgeSel) (mode : LatchMode) (holdoffUs filterLen : Nat) (l : Latch) : Latch :=
  { l with
    edge := edge, mode := mode, holdoffUs := holdoffUs, filterLen := filterLen
    arm := if edge = .off then .off else .armed, holdoff := none }

/-- LATCH_SET's owner (R133, R134). -/
def ownLatchSet : Owner := fun s p =>
  match latchAt p 0 with
  | none => refuse .range s
  | some n =>
    if 15 < u8At p 3 then refuse .range s
    else
      match edgeSel? (byteAt p 1), latchMode? (byteAt p 2) with
      | some edge, some mode =>
        let l := (s.lcu.latches.get n).configure edge mode (u16At p 4) (u8At p 3)
        carryOut .ok [l.arm.code, bit l.filter.level] (s.setLatch n l)
      | _, _ => refuse .badValue s

/-- LATCH_SET (R133, R134). -/
def execLatchSet (s : State) : Out := live (State.executeKind 0x30 ownLatchSet) s

/-- LATCH_ARM's owner (R135). -/
def ownLatchArm : Owner := fun s p =>
  match latchAt p 0 with
  | none => refuse .range s
  | some n =>
    let l := s.lcu.latches.get n
    if l.arm = .off then refuse .state s
    else
      carryOut .ok ([l.arm.code, bit l.filter.level] ++ word16 l.lost ++ word16 l.suppressed)
        (s.setLatch n { l with arm := .armed })

/-- LATCH_ARM (R135). -/
def execLatchArm (s : State) : Out := live (State.executeKind 0x31 ownLatchArm) s

/-- The block of one latch in CAPTURE_READ (R136, R194). -/
def Latch.block (l : Latch) : List Byte := [l.arm.code, bit l.filter.level] ++ word16 l.lost ++ word16 l.suppressed

/-- The CAPTURE_READ fields for `n` records asked for (R136, R194). -/
def Lcu.readBody (n : Nat) (c : Lcu) : List Byte :=
  le8 (c.queue.take n).length ++ le8 (c.queue.drop n).length ++ [c.tally, 0]
    ++ (c.latches.toList.map Latch.block).flatten ++ ((c.queue.take n).map Capture.bytes).flatten

/-- CAPTURE_READ's owner (R136). -/
def ownCaptureRead : Owner := fun s p =>
  if u8At p 0 = 0 ∨ 8 < u8At p 0 then refuse .range s
  else
    carryOut .ok (s.lcu.readBody (u8At p 0)) { s with lcu := { s.lcu with queue := s.lcu.queue.drop (u8At p 0) } }

/-- CAPTURE_READ (R136). -/
def execCaptureRead (s : State) : Out := live (State.executeKind 0x32 ownCaptureRead) s

/-- CAPTURE_FLUSH's owner (R137). -/
def ownCaptureFlush : Owner := fun s _ =>
  carryOut .ok (le8 s.lcu.queue.length ++ [s.lcu.tally]) { s with lcu := { s.lcu with queue := [] } }

/-- CAPTURE_FLUSH (R137). -/
def execCaptureFlush (s : State) : Out := live (State.executeKind 0x33 ownCaptureFlush) s

end Sys2Proof.Machine
end

