-- ==== Sys2Proof/Machine/Link.lean ====
section
/-! DEFINITION. The link rows: byte events, the gap timer, the idle line, the end of a transmission and the hand-over of
a report (spec 09, spec 08 R142). A byte event does what the receiver's state makes of it, whichever row names it
(log 16). -/

namespace Sys2Proof.Machine

/-- The part after a byte event on RXD (R164..R167). -/
def State.receive (e : ByteEvent) (s : State) : State := { s with lkp := s.lkp.receive e }

/-- GOOD_BYTE: a good byte that advances a frame (R164, R165, R166). -/
def execGoodByte (b : Byte) (s : State) : Out := live (State.receive (.good b)) s

/-- NOISE: a byte event discarded in HUNT (R164). -/
def execNoise (e : ByteEvent) (s : State) : Out := live (State.receive e) s

/-- LENGTH_ERROR: a LEN byte greater than 240 (R165). -/
def execLengthError (b : Byte) (s : State) : Out := live (State.receive (.good b)) s

/-- The byte event of a line error. -/
def lineErrorEvent : LineError → ByteEvent
  | .framing => .framing
  | .lineBreak => .lineBreak

/-- BYTE_ERROR: a framing error or break inside a frame (R167). -/
def execByteError (e : LineError) (s : State) : Out := live (State.receive (lineErrorEvent e)) s

/-- FRAME: the second CRC byte completes a frame (R166, R170). -/
def execFrame (b : Byte) (s : State) : Out := live (State.receive (.good b)) s

/-- GAP_EXPIRY: more than 20 byte times inside a frame without a byte event (R168). -/
def execGapExpiry (s : State) : Out := live (fun s => { s with lkp := s.lkp.gapExpired }) s

/-- RXD_IDLE: RXD has been high long enough; the receiver takes start bits again (R162, R163). -/
def execRxdIdle (s : State) : Out := live (fun s => { s with lkp := { s.lkp with rxLine := .ready } }) s

/-- TRANSMIT_END: TXD becomes free; the arbiter starts the oldest reply, or grants the line to the RSC, or leaves TXD
idle (R179, R180). -/
def execTransmitEnd (s : State) : Out :=
  live (fun s => match s.lkp.tx with
    | .sending _ => State.grantLine { s with lkp := s.lkp.endTransmission }
    | .startupIdle => s
    | .free => s
    | .resetDue => s) s

/-- REPORT_HAND_OVER (R142, R143). -/
def execReportHandOver (s : State) : Out := live State.grantLine s

end Sys2Proof.Machine
end

