-- ==== Sys2Proof/Machine/Outputs.lean ====
section
/-! DEFINITION. The output requests (spec 05 R98, R99, R101). -/

namespace Sys2Proof.Machine

/-- OUTPUT_ENABLE's owner (R98). -/
def ownOutputEnable : Owner := fun s p =>
  match yesNo? (byteAt p 0) with
  | none => refuse .badValue s
  | some e =>
    carryOutShow (fun t => [bit s.tev.enable] ++ le8 t.tev.levels) { s with tev := { s.tev with enable := e } }

/-- OUTPUT_ENABLE (R98). -/
def execOutputEnable (s : State) : Out := live (State.executeKind 0x28 ownOutputEnable) s

/-- The effect of an accepted TRACK_MODE_SET before its evaluation (R99). -/
def State.setMode (t : Fin 8) (mode : TrackMode) (safe : SafeLevel) (polarity : Polarity) (stallInhibit : Bool)
    (s : State) : State :=
  { s with
    tev := { s.tev with
      tracks := s.tev.tracks.set t
        { s.tev.tracks.get t with mode := mode, safe := safe, polarity := polarity, stallInhibit := stallInhibit } } }

/-- TRACK_MODE_SET's owner (R99). -/
def ownTrackModeSet : Owner := fun s p =>
  match trackAt p 0 with
  | none => refuse .range s
  | some t =>
    match trackMode? (byteAt p 1), safe? (byteAt p 2), polarity? (byteAt p 3), yesNo? (byteAt p 4) with
    | some mode, some safe, some pol, some inh =>
      if byteAt p 5 ≠ 0 then refuse .badValue s
      else
        carryOutShow
          (fun e => [bit (e.tev.tracks.get t).level, (trackCause e.evalInputs (e.tev.tracks.get t)).code,
            bit (e.tev.tracks.get t).pin])
          (s.setMode t mode safe pol inh)
    | _, _, _, _ => refuse .badValue s

/-- TRACK_MODE_SET (R99). -/
def execTrackModeSet (s : State) : Out := live (State.executeKind 0x29 ownTrackModeSet) s

/-- The TRACK_STATUS fields, from a state that has just been evaluated (R101, R194). -/
def State.trackBody (n : Fin 8) (s : State) : List Byte :=
  let t := s.tev.tracks.get n
  let tab := s.cts.active.tracks.get n
  let x := s.evalInputs
  [bit t.level, bit t.pin, (trackCause x t).code, bit t.evaluated, bit (rawLevel x tab)]
    ++ (match currentWindow x tab with
      | some i => le8 i
      | none => [0xFF])
    ++ [t.mode.code, t.safe.code, t.polarity.code, bit t.stallInhibit, bit t.held, t.flags (leadClipped x tab)]
    ++ le16 (effectivePosition x tab) ++ le16 (leadCounts x tab)
    ++ (match t.memory with
      | some m => le16 m.position
      | none => le16 0)
    ++ word16 s.cts.generation ++ word32 t.switches
    ++ (match t.lastSwitch with
      | some w => word32 w
      | none => le32 0)

/-- TRACK_STATUS's owner (R101). -/
def ownTrackStatus : Owner := fun s p =>
  match trackAt p 0 with
  | none => refuse .range s
  | some t => carryOutShow (State.trackBody t) s

/-- TRACK_STATUS (R12, R101). -/
def execTrackStatus (s : State) : Out := live (State.executeAfterStep 0x2A ownTrackStatus) s

end Sys2Proof.Machine
end

