-- ==== Sys2Proof/Machine/Reports.lean ====
section
/-! DEFINITION. The report requests (spec 08 R145, R158, R160). -/

namespace Sys2Proof.Machine

/-- The RSC after an accepted REPORT_SET (R158): an accumulator is kept only for a kind that stays enabled. -/
def Rsc.configure (e : EnableSet) (intervalMs : Nat) (now : Word32) (r : Rsc) : Rsc :=
  { r with
    sync := if e.sync && r.enable.sync then r.sync else none
    fault := if e.fault && r.enable.fault then r.fault else FaultAcc.empty
    motion := if e.motion && r.enable.motion then r.motion else MotionAcc.empty
    position := if e.position && r.enable.position then r.position else none
    enable := e
    intervalMs := intervalMs
    timer := if e.position && decide (intervalMs ≠ 0) then some now else none }

/-- REPORT_SET's owner (R158). The events that the RSC has not folded yet are folded first (R159, log 29). -/
def ownReportSet : Owner := fun s p =>
  match enableSet? (byteAt p 0) with
  | none => refuse .badValue s
  | some e =>
    if byteAt p 1 ≠ 0 then refuse .badValue s
    else
      carryOut .ok ([s.rsc.enable.code, 0] ++ le16 s.rsc.intervalMs)
        { s with rsc := s.rsc.takenAll.configure e (u16At p 2) s.tsu.timebase }

/-- REPORT_SET (R158). -/
def execReportSet (s : State) : Out := live (State.executeKind 0x38 ownReportSet) s

/-- The credit after a grant (R145). -/
def grantCredit (credit grant : Nat) : Nat := min (credit + grant) 15

/-- REPORT_GRANT's owner (R145). -/
def ownReportGrant : Owner := fun s p =>
  if 15 < u8At p 0 then refuse .range s
  else
    carryOut .ok (le8 (grantCredit s.rsc.credit (u8At p 0)))
      { s with rsc := { s.rsc with credit := grantCredit s.rsc.credit (u8At p 0) } }

/-- REPORT_GRANT (R145). -/
def execReportGrant (s : State) : Out := live (State.executeKind 0x39 ownReportGrant) s

/-- The REPORT_STATUS fields (R160, R194). -/
def State.reportBody (s : State) : List Byte :=
  le8 s.rsc.credit ++ [s.pendingByte] ++ le8 s.rsc.inFlight ++ le8 s.rsc.waiting.length
    ++ [s.rsc.seq, s.rsc.enable.code] ++ le16 s.rsc.intervalMs

/-- REPORT_STATUS's owner (R160). The events that the RSC has not folded yet are folded first (log 29). -/
def ownReportStatus : Owner := fun s _ => carryOut .ok s.takeReports.reportBody s.takeReports

/-- REPORT_STATUS (R160). -/
def execReportStatus (s : State) : Out := live (State.executeKind 0x3A ownReportStatus) s

end Sys2Proof.Machine
end

