-- ==== Sys2Proof/Machine/Reset.lean ====
section
/-! DEFINITION. Resets, the reset pin and the start-up of the link (spec 09 section 9.6, spec 11 section 11.1). -/

namespace Sys2Proof.Machine

/-- Every block at its reset values, with the cause, reset count and straps of this reset. The model's own queue of
commands and counter of free values are kept. -/
def State.resetTo (cause : ResetCause) (count : Word16) (straps : BitVec 2) (s : State) : State :=
  { State.reset with
    rsc := Rsc.reset cause, lkp := Lkp.reset cause count straps, free := s.free, pending := s.pending }

/-- POWER_ON_RESET: the supply becomes valid; the reset count becomes 0 (R181). NRST is taken as high (log 11). -/
def execPowerOnReset (straps : BitVec 2) (s : State) : Out := .next (s.resetTo .powerOn 0 straps)

/-- PIN_RESET: NRST returns high; the reset count rises by one and the part starts (R181). -/
def execPinReset (straps : BitVec 2) (s : State) : Out := .next (s.resetTo .pin (s.lkp.resetCount + 1) straps)

/-- NRST_LOW: the part is held in reset; TXD and OUT0..OUT7 take their reset levels and a frame in transmission is cut
off (R181, R184, R95). The reset count rises when NRST returns high (PIN_RESET). -/
def execNrstLow (s : State) : Out :=
  .next { s.resetTo .pin s.lkp.resetCount s.lkp.straps with nrstLow := true }

/-- Whether TXD sends, or has just sent, the OK reply to RESET (R182). -/
def Tx.endsInReset : Tx → Bool
  | .sending r => r.resetOk
  | .resetDue => true
  | .startupIdle => false
  | .free => false

/-- REQUEST_RESET: after the stop bit of the RESET's OK reply the part resets (R182). -/
def execRequestReset (straps : BitVec 2) (s : State) : Out :=
  live (fun s => if s.lkp.tx.endsInReset then s.resetTo .request (s.lkp.resetCount + 1) straps else s) s

/-- TXD becomes free at the end of the start-up idle time, and HELLO is handed over first (R184, R197, log 25). -/
def State.endStartupIdle (s : State) : State :=
  let s1 : State := { s with lkp := { s.lkp with tx := .free } }
  if s.rsc.hello.isSome then s1.handOverKind .hello
  else State.grantLine { s1 with lkp := s1.lkp.startReply }

/-- STARTUP_IDLE_END (R197). -/
def execStartupIdleEnd (s : State) : Out :=
  live (fun s => if s.lkp.tx = .startupIdle then s.endStartupIdle else s) s

end Sys2Proof.Machine
end

