-- ==== Sys2Proof/Machine/Speed.lean ====
section
/-! DEFINITION. The speed requests (spec 03 R55, R57). -/

namespace Sys2Proof.Machine

/-- SPEED_SET's owner (R55). -/
def ownSpeedSet : Owner := fun s p =>
  if u16At p 2 = 0 ∨ 16777215 < u32At p 4 then refuse .range s
  else if ¬(u8At p 0 = 1 ∨ u8At p 0 = 2 ∨ u8At p 0 = 4 ∨ u8At p 0 = 8) ∨ byteAt p 1 ≠ 0 then refuse .badValue s
  else carryOut .ok [] (s.setSpeed (u8At p 0) (u16At p 2) (u32At p 4))

/-- SPEED_SET (R55). -/
def execSpeedSet (s : State) : Out := live (State.executeKind 0x10 ownSpeedSet) s

/-- The `direction` byte of SPEED_GET: `last_dir`, and a free byte while it is absent (R57, log 13). -/
def State.speedDirection (s : State) : Byte :=
  match s.tsu.lastDir with
  | some d => d.code
  | none => Config.freeByte s.free

/-- The timestamp of the newest entry, or 0 (R57). -/
def Tsu.lastStepAt (t : Tsu) : Word32 :=
  match t.history with
  | [] => 0
  | newest :: _ => newest.time

/-- The SPEED_GET fields (R57, R194). -/
def State.speedBody (s : State) : List Byte :=
  s32 s.tsu.presented ++ [s.speedFlags, s.speedDirection] ++ le8 s.tsu.history.length ++ le8 s.tsu.used
    ++ le32 (min s.tsu.span 4294967295) ++ word32 s.tsu.lastStepAt ++ word32 s.tsu.timebase ++ le8 s.tsu.depth ++ [0]
    ++ le16 s.tsu.stallMs ++ le32 s.tsu.overspeedLimit

/-- SPEED_GET's owner (R57). -/
def ownSpeedGet : Owner := fun s _ => carryOut .ok s.speedBody { s with free := s.free + 1 }

/-- SPEED_GET (R48, R57). -/
def execSpeedGet (s : State) : Out := live (State.executeAfterStep 0x11 ownSpeedGet) s

end Sys2Proof.Machine
end

