-- ==== Sys2Proof/Machine/SyncRequests.lean ====
section
/-! DEFINITION. The requests of the Reference Tracker (spec 02 R25, R31, R32, R39, R40). -/

namespace Sys2Proof.Machine

/-- INDEX_CHECK_SET's owner (R39). -/
def ownIndexCheckSet : Owner := fun s p =>
  if u8At p 2 < 1 ∨ 7 < u8At p 2 then refuse .range s
  else
    match yesNo? (byteAt p 0), indexPolicy? (byteAt p 3) with
    | some check, some policy =>
      carryOut .ok []
        { s with rft := { s.rft with
            configured := { check := check, tolerance := u8At p 1, limit := u8At p 2, policy := policy } } }
    | _, _ => refuse .badValue s

/-- INDEX_CHECK_SET (R39). -/
def execIndexCheckSet (s : State) : Out := live (State.executeKind 0x0B ownIndexCheckSet) s

/-- The fields of a SEEK that pass the RANGE and BAD_VALUE checks: the source and the edge code. For source INDEX the
`edge` field is not examined (R25). -/
def seekFields? (p : List Byte) : Option Source :=
  match source? (byteAt p 0) with
  | none => none
  | some .index => some .index
  | some (.latch n) => if 1 ≤ u8At p 1 ∧ u8At p 1 ≤ 3 then some (.latch n) else none

/-- The edge code that the seek record of a SEEK holds; free for source INDEX (log 13). -/
def State.seekEdge (src : Source) (p : List Byte) (s : State) : Byte :=
  match src with
  | .index => Config.freeByte s.free
  | .latch _ => byteAt p 1

/-- The seek record of an accepted SEEK (R25, section 2.2). -/
def State.seekRecord (src : Source) (p : List Byte) (s : State) : SeekRecord :=
  { ticket := s.bsc.nextTicket, source := src, edgeCode := s.seekEdge src p, refValue := u16At p 2
    travelLimit := u32At p 4, start := s.pcu.pos }

/-- The effect of an accepted SEEK: ticket, one operation in flight, SEEKING; a pending commit is abandoned (R25,
R114). -/
def State.startSeek (src : Source) (p : List Byte) (s : State) : State :=
  State.bscLeft
    (State.changeSync (.seeking (s.seekRecord src p)) .seek
      { s with
        bsc := { s.bsc with nextTicket := nextTicket s.bsc.nextTicket }
        rsc := s.rsc.accept
        free := s.free + 1 })

/-- SEEK's owner: the checks of R25 in their order. -/
def ownSeek : Owner := fun s p =>
  if s.pcu.axis.cpr ≤ u16At p 2 ∨ 16777215 < u32At p 4 then refuse .range s
  else
    match seekFields? p with
    | none => refuse .badValue s
    | some src =>
      if src = .index ∧ s.pcu.axis.indexEnable = false then refuse .state s
      else if s.rft.sync.state = .seeking then refuse .pending s
      else if s.rsc.hasRoom = false then refuse .noRoom s
      else carryOut .accepted [s.bsc.nextTicket] (s.startSeek src p)

/-- SEEK (R25). -/
def execSeek (s : State) : Out := live (State.executeKind 0x0C ownSeek) s

/-- SEEK_ABORT's owner (R31). -/
def ownSeekAbort : Owner := fun s _ =>
  match s.rft.sync with
  | .seeking r => carryOut .ok [] (s.failSeek r .aborted .abort)
  | .free => refuse .notPending s
  | .locked _ => refuse .notPending s
  | .lost _ => refuse .notPending s

/-- SEEK_ABORT (R31). -/
def execSeekAbort (s : State) : Out := live (State.executeKind 0x0D ownSeekAbort) s

/-- RELEASE's owner (R32). -/
def ownRelease : Owner := fun s _ =>
  match s.rft.sync with
  | .free => carryOut .ok [] s
  | .seeking r => carryOut .ok [] (s.failSeek r .aborted .release)
  | .locked _ => carryOut .ok [] (s.changeSync .free .release).bscLeft
  | .lost _ => carryOut .ok [] (s.changeSync .free .release).bscLeft

/-- RELEASE (R32). -/
def execRelease (s : State) : Out := live (State.executeKind 0x0E ownRelease) s

/-- A set of index-check settings as four bytes (R40, R194). -/
def CheckSet.bytes (c : CheckSet) : List Byte :=
  [bit c.check] ++ le8 c.tolerance ++ le8 c.limit ++ [c.policy.code]

/-- Travel saturated to 32 bits (R40). -/
def saturate32 (x : Int) : Int := max (-2147483648) (min 2147483647 x)

/-- Bytes 10 to 23 of SYNC_STATUS: the seek record, zero outside SEEKING (R40, R194). -/
def State.seekBytes (s : State) : List Byte :=
  match s.rft.sync with
  | .seeking r =>
    [r.ticket, r.source.code, r.edgeCode, 0] ++ le16 r.refValue ++ le32 r.travelLimit
      ++ s32 (saturate32 (travel s.pcu.axis.cpr r.start s.pcu.pos))
  | .free => List.replicate 14 0
  | .locked _ => List.replicate 14 0
  | .lost _ => List.replicate 14 0

/-- A reference record as bytes 24 to 43 of SYNC_STATUS (R40, R194). -/
def RefRecord.bytes (r : RefRecord) : List Byte :=
  [r.source.code, r.present] ++ le8 r.consec ++ [0] ++ le16 r.refValue
    ++ (match r.index with
      | some ix => le16 ix.pos
      | none => le16 0)
    ++ (match r.lastD with
      | some d => s16 d
      | none => le16 0)
    ++ word32 r.lockedAt
    ++ (match r.index with
      | some ix => word32 ix.last.rev ++ le16 ix.last.angle
      | none => List.replicate 6 0)

/-- Bytes 24 to 43 of SYNC_STATUS: the reference record, zero in FREE and SEEKING (R40, R194). -/
def State.refBytes (s : State) : List Byte :=
  match s.rft.sync with
  | .locked r => r.bytes
  | .lost r => r.bytes
  | .free => List.replicate 20 0
  | .seeking _ => List.replicate 20 0

/-- The SYNC_STATUS fields (R40, R194). -/
def State.syncBody (s : State) : List Byte :=
  [s.rft.sync.state.code, s.rft.cause.code] ++ s.rft.configured.bytes ++ s.rft.inForce.bytes ++ s.seekBytes ++ s.refBytes
    ++ le16 s.pcu.pos.angle ++ word32 s.pcu.pos.rev

/-- SYNC_STATUS's owner (R40). -/
def ownSyncStatus : Owner := fun s _ => carryOut .ok s.syncBody s

/-- SYNC_STATUS (R12, R40). -/
def execSyncStatus (s : State) : Out := live (State.executeAfterStep 0x0F ownSyncStatus) s

end Sys2Proof.Machine
end

