-- ==== Sys2Proof/Machine/Tables.lean ====
section
/-! DEFINITION. The table requests (spec 04 R69..R79). -/

namespace Sys2Proof.Machine

/-- Insert a window at the place that keeps the list sorted by `on` (R64, R71). -/
def insertWindow (w : Window) : List Window → List Window
  | [] => [w]
  | x :: rest => if w.on < x.on then w :: x :: rest else x :: insertWindow w rest

/-- The number of windows with a lower `on`: the index of an added window (R71). -/
def windowIndex (on : Nat) (ws : List Window) : Nat := ws.countP fun x => decide (x.on < on)

/-- SHADOW with one track's table replaced, a new pool count, and dirty set (R67, R69). -/
def Cts.edit (t : Fin 8) (tab : TrackTable) (pool : Nat) (c : Cts) : Cts :=
  { c with shadow := { tracks := c.shadow.tracks.set t tab, pool := pool }, dirty := true }

/-- An accepted edit (R69). -/
def State.editShadow (t : Fin 8) (tab : TrackTable) (pool : Nat) (s : State) : State :=
  { s with cts := s.cts.edit t tab pool }

/-- Whether SHADOW is locked (R68). -/
def State.shadowLocked (s : State) : Bool := s.bsc.commit.isSome

/-- The effect of an accepted WINDOW_ADD (R71). -/
def State.addWindow (t : Fin 8) (w : Window) (s : State) : State :=
  let tab := s.cts.shadow.tracks.get t
  s.editShadow t { tab with windows := insertWindow w tab.windows } (s.cts.shadow.pool + 1)

/-- WINDOW_ADD's owner: the checks of R70 in their order, then R71; an OVERLAP names the lowest `on` (R72). -/
def ownWindowAdd : Owner := fun s p =>
  match trackAt p 0 with
  | none => refuse .range s
  | some t =>
    let tab := s.cts.shadow.tracks.get t
    if s.pcu.axis.cpr ≤ u16At p 2 ∨ s.pcu.axis.cpr ≤ u16At p 4 then refuse .range s
    else
      match winDir? (byteAt p 1) with
      | none => refuse .badValue s
      | some d =>
        let w : Window := { on := u16At p 2, off := u16At p 4, dir := d }
        if w.on = w.off then refuse .badValue s
        else if s.shadowLocked then refuse .locked s
        else
          match tab.windows.find? fun u => w.overlaps u with
          | some u => carryOut .overlap (le16 u.on) s
          | none =>
            if 16 ≤ tab.windows.length then refuse .trackFull s
            else if 64 ≤ s.cts.shadow.pool then refuse .poolFull s
            else
              carryOut .ok
                (le8 (windowIndex w.on tab.windows) ++ le8 (tab.windows.length + 1) ++ le8 (s.cts.shadow.pool + 1))
                (s.addWindow t w)

/-- WINDOW_ADD (R70..R72). -/
def execWindowAdd (s : State) : Out := live (State.executeKind 0x18 ownWindowAdd) s

/-- The effect of an accepted WINDOW_REMOVE of the window at index `i` (R73). -/
def State.removeWindow (t : Fin 8) (i : Nat) (s : State) : State :=
  let tab := s.cts.shadow.tracks.get t
  s.editShadow t { tab with windows := tab.windows.eraseIdx i } (s.cts.shadow.pool - 1)

/-- WINDOW_REMOVE's owner (R73). -/
def ownWindowRemove : Owner := fun s p =>
  match trackAt p 0 with
  | none => refuse .range s
  | some t =>
    let tab := s.cts.shadow.tracks.get t
    if byteAt p 1 ≠ 0 then refuse .badValue s
    else if s.shadowLocked then refuse .locked s
    else
      match tab.windows.findIdx? fun u => decide (u.on = u16At p 2), tab.windows.find? fun u => decide (u.on = u16At p 2) with
      | some i, some u => carryOut .ok (le16 u.off ++ [u.dir.code] ++ le8 i) (s.removeWindow t i)
      | _, _ => refuse .notFound s

/-- WINDOW_REMOVE (R73). -/
def execWindowRemove (s : State) : Out := live (State.executeKind 0x19 ownWindowRemove) s

/-- The effect of an accepted TRACK_CLEAR (R74). -/
def State.clearTrack (t : Fin 8) (s : State) : State :=
  let tab := s.cts.shadow.tracks.get t
  s.editShadow t { tab with windows := [] } (s.cts.shadow.pool - tab.windows.length)

/-- TRACK_CLEAR's owner (R74). -/
def ownTrackClear : Owner := fun s p =>
  match trackAt p 0 with
  | none => refuse .range s
  | some t =>
    if s.shadowLocked then refuse .locked s
    else carryOut .ok (le8 (s.cts.shadow.tracks.get t).windows.length) (s.clearTrack t)

/-- TRACK_CLEAR (R74). -/
def execTrackClear (s : State) : Out := live (State.executeKind 0x1A ownTrackClear) s

/-- A window entry of 6 bytes (R196). -/
def Window.bytes (w : Window) : List Byte := le16 w.on ++ le16 w.off ++ [w.dir.code, 0]

/-- The TRACK_LIST fields (R78, R194). -/
def State.trackListBody (shadow : Bool) (t : Fin 8) (s : State) : List Byte :=
  let tab := (if shadow then s.cts.shadow else s.cts.active).tracks.get t
  [bit shadow] ++ le8 t.val ++ [bit s.cts.dirty] ++ le8 tab.windows.length ++ word16 s.cts.generation
    ++ le16 tab.leadUs ++ le16 tab.hysteresis ++ (tab.windows.map Window.bytes).flatten

/-- TRACK_LIST's owner (R78); the bank codes are those of no and yes for ACTIVE and SHADOW (section 10.3). -/
def ownTrackList : Owner := fun s p =>
  match trackAt p 1 with
  | none => refuse .range s
  | some t =>
    match yesNo? (byteAt p 0) with
    | none => refuse .badValue s
    | some shadow => carryOut .ok (s.trackListBody shadow t) s

/-- TRACK_LIST (R78). -/
def execTrackList (s : State) : Out := live (State.executeKind 0x1B ownTrackList) s

/-- The effect of an accepted TRACK_PARAM_SET (R75). -/
def State.setParams (t : Fin 8) (leadUs hysteresis : Nat) (s : State) : State :=
  s.editShadow t { s.cts.shadow.tracks.get t with leadUs := leadUs, hysteresis := hysteresis } s.cts.shadow.pool

/-- TRACK_PARAM_SET's owner (R75). -/
def ownTrackParamSet : Owner := fun s p =>
  match trackAt p 0 with
  | none => refuse .range s
  | some t =>
    if 255 < u16At p 4 then refuse .range s
    else if byteAt p 1 ≠ 0 then refuse .badValue s
    else if s.shadowLocked then refuse .locked s
    else carryOut .ok [] (s.setParams t (u16At p 2) (u16At p 4))

/-- TRACK_PARAM_SET (R75). -/
def execTrackParamSet (s : State) : Out := live (State.executeKind 0x1C ownTrackParamSet) s

/-- The effect of an accepted SHADOW_REVERT (R76). -/
def State.revertShadow (s : State) : State :=
  { s with cts := { s.cts with shadow := s.cts.active, dirty := false } }

/-- SHADOW_REVERT's owner (R76). -/
def ownShadowRevert : Owner := fun s _ =>
  if s.shadowLocked then refuse .locked s else carryOut .ok (le8 s.cts.active.pool) s.revertShadow

/-- SHADOW_REVERT (R76). -/
def execShadowRevert (s : State) : Out := live (State.executeKind 0x1D ownShadowRevert) s

/-- The eight window counts of a bank, T0 first, and its pool count (R79, R194). -/
def Bank.countBytes (b : Bank) : List Byte :=
  (b.tracks.toList.map fun t => BitVec.ofNat 8 t.windows.length) ++ le8 b.pool

/-- `ticket`, `policy` and `p` of BANK_INFO, zero where they do not apply (R79). -/
def Bsc.infoBytes (b : Bsc) : List Byte :=
  match b.commit with
  | some c => [c.ticket, c.policy.code] ++ (match c.policy with
    | .atPosition p => le16 p
    | .atIndex => le16 0)
  | none => [0, 0] ++ le16 0

/-- The BANK_INFO fields (R79, R194). -/
def State.bankBody (s : State) : List Byte :=
  word16 s.cts.generation ++ [bit s.cts.dirty, bit s.bsc.commit.isSome] ++ s.cts.active.countBytes
    ++ s.cts.shadow.countBytes ++ s.bsc.infoBytes

/-- BANK_INFO's owner (R79). -/
def ownBankInfo : Owner := fun s _ => carryOut .ok s.bankBody s

/-- BANK_INFO (R79). -/
def execBankInfo (s : State) : Out := live (State.executeKind 0x1E ownBankInfo) s

end Sys2Proof.Machine
end

