-- ==== Sys2Proof/Machine/Dispatch.lean ====
section
/-! DEFINITION. Each command to its meaning. -/

namespace Sys2Proof.Machine

/-- The effect of a command on everything but the queue of commands. -/
def exec (i : Instr) (s : State) : Host.Outcome State Fault Refusal :=
  match i with
  | .powerOnReset straps => Sys2Proof.Machine.execPowerOnReset straps s
  | .pinReset straps => Sys2Proof.Machine.execPinReset straps s
  | .requestReset straps => Sys2Proof.Machine.execRequestReset straps s
  | .startupIdleEnd => Sys2Proof.Machine.execStartupIdleEnd s
  | .settlingEnd => Sys2Proof.Machine.execSettlingEnd s
  | .latchSettlingEnd latch => Sys2Proof.Machine.execLatchSettlingEnd latch s
  | .step turn => Sys2Proof.Machine.execStep turn s
  | .quadError turn => Sys2Proof.Machine.execQuadError turn s
  | .indexEvent turn => Sys2Proof.Machine.execIndexEvent turn s
  | .latchEdge latch turn => Sys2Proof.Machine.execLatchEdge latch turn s
  | .stallExpiry => Sys2Proof.Machine.execStallExpiry s
  | .speedDecay => Sys2Proof.Machine.execSpeedDecay s
  | .holdoffEnd latch => Sys2Proof.Machine.execHoldoffEnd latch s
  | .positionTimerExpiry view => Sys2Proof.Machine.execPositionTimerExpiry view s
  | .noise e => Sys2Proof.Machine.execNoise e s
  | .lengthError b => Sys2Proof.Machine.execLengthError b s
  | .byteError e => Sys2Proof.Machine.execByteError e s
  | .gapExpiry => Sys2Proof.Machine.execGapExpiry s
  | .frame b => Sys2Proof.Machine.execFrame b s
  | .transmitEnd => Sys2Proof.Machine.execTransmitEnd s
  | .reportHandOver => Sys2Proof.Machine.execReportHandOver s
  | .badKind => Sys2Proof.Machine.execBadKind s
  | .identify => Sys2Proof.Machine.execIdentify s
  | .status => Sys2Proof.Machine.execStatus s
  | .linkStatus => Sys2Proof.Machine.execLinkStatus s
  | .reset => Sys2Proof.Machine.execReset s
  | .axisGet => Sys2Proof.Machine.execAxisGet s
  | .axisSet => Sys2Proof.Machine.execAxisSet s
  | .positionSet => Sys2Proof.Machine.execPositionSet s
  | .indexCheckSet => Sys2Proof.Machine.execIndexCheckSet s
  | .seek => Sys2Proof.Machine.execSeek s
  | .seekAbort => Sys2Proof.Machine.execSeekAbort s
  | .release => Sys2Proof.Machine.execRelease s
  | .syncStatus => Sys2Proof.Machine.execSyncStatus s
  | .speedSet => Sys2Proof.Machine.execSpeedSet s
  | .speedGet => Sys2Proof.Machine.execSpeedGet s
  | .windowAdd => Sys2Proof.Machine.execWindowAdd s
  | .windowRemove => Sys2Proof.Machine.execWindowRemove s
  | .trackClear => Sys2Proof.Machine.execTrackClear s
  | .trackList => Sys2Proof.Machine.execTrackList s
  | .trackParamSet => Sys2Proof.Machine.execTrackParamSet s
  | .shadowRevert => Sys2Proof.Machine.execShadowRevert s
  | .bankInfo => Sys2Proof.Machine.execBankInfo s
  | .commitNow => Sys2Proof.Machine.execCommitNow s
  | .commitAtPosition => Sys2Proof.Machine.execCommitAtPosition s
  | .commitAtIndex => Sys2Proof.Machine.execCommitAtIndex s
  | .commitCancel => Sys2Proof.Machine.execCommitCancel s
  | .outputEnable => Sys2Proof.Machine.execOutputEnable s
  | .trackModeSet => Sys2Proof.Machine.execTrackModeSet s
  | .trackStatus => Sys2Proof.Machine.execTrackStatus s
  | .latchSet => Sys2Proof.Machine.execLatchSet s
  | .latchArm => Sys2Proof.Machine.execLatchArm s
  | .captureRead => Sys2Proof.Machine.execCaptureRead s
  | .captureFlush => Sys2Proof.Machine.execCaptureFlush s
  | .reportSet => Sys2Proof.Machine.execReportSet s
  | .reportGrant => Sys2Proof.Machine.execReportGrant s
  | .reportStatus => Sys2Proof.Machine.execReportStatus s
  | .sample levels => Sys2Proof.Machine.execSample levels s
  | .goodByte b => Sys2Proof.Machine.execGoodByte b s
  | .nrstLow => Sys2Proof.Machine.execNrstLow s
  | .rxdIdle => Sys2Proof.Machine.execRxdIdle s

end Sys2Proof.Machine
end

