-- ==== Sys2Proof/Safety.lean ====
section
/-! DEFINITION. What counts as a sound state of each part of the machine, and what it means that a request has been
answered: the terms that the statements use. -/

namespace Sys2Proof.Machine

/-! ## Sound states -/

/-- Every angle a record holds lies below CPR. -/
def IndexRef.below (cpr : Nat) (ix : IndexRef) : Prop := ix.pos < cpr ∧ ix.last.angle < cpr

/-- Every angle of the record that is present lies below CPR (section 2.2). -/
def Sync.below (cpr : Nat) : Sync → Prop
  | .free => True
  | .seeking r => r.refValue < cpr ∧ r.start.angle < cpr
  | .locked r => r.refValue < cpr ∧ ∀ ix ∈ r.index, ix.below cpr
  | .lost r => r.refValue < cpr ∧ ∀ ix ∈ r.index, ix.below cpr

/-- A pending commit stands in LOCKED, which AXIS_SET refuses, and its angle lies below CPR (R105, R107, R114). -/
def State.commitBelow (s : State) (cpr : Nat) : Prop :=
  ∀ c, s.bsc.commit = some c → s.rft.sync.state = .locked ∧ ∀ p, c.policy = .atPosition p → p < cpr

/-- The position of every hysteresis memory lies below CPR (R82, R88). -/
def Tev.memoriesBelow (t : Tev) (cpr : Nat) : Prop := ∀ i m, (t.tracks.get i).memory = some m → m.position < cpr

/-- CPR is in its range, and below it lie the angle, the angles of the seek and reference records, that of a pending
commit and those of the hysteresis memories (R10, R18, R82, R105). Captures and completions are not among them: they keep
the angles of an older CPR (R19). -/
def State.axisSound (s : State) : Prop :=
  8 ≤ s.pcu.axis.cpr ∧ s.pcu.axis.cpr ≤ 65536 ∧ s.pcu.pos.angle < s.pcu.axis.cpr ∧ s.rft.sync.below s.pcu.axis.cpr
    ∧ s.commitBelow s.pcu.axis.cpr ∧ s.tev.memoriesBelow s.pcu.axis.cpr

/-- The index-error count is below the bound of R36 in LOCKED, and at most 7 in LOST. -/
def Sync.errorsBounded : Sync → Prop
  | .locked r => r.consec ≤ 6
  | .lost r => r.consec ≤ 7
  | .free => True
  | .seeking _ => True

/-- Both limits are in 1..7 and the index-error count never needs to exceed 7 (R36, R39). -/
def State.checksSound (s : State) : Prop :=
  (1 ≤ s.rft.configured.limit ∧ s.rft.configured.limit ≤ 7) ∧ (1 ≤ s.rft.inForce.limit ∧ s.rft.inForce.limit ≤ 7)
    ∧ s.rft.sync.errorsBounded

/-- One track of a bank is well formed (R60, R64). -/
def TrackTable.sound (cpr : Nat) (t : TrackTable) : Prop :=
  t.windows.Pairwise (fun u w => u.on < w.on) ∧ t.windows.length ≤ 16
    ∧ t.windows.Pairwise (fun u w => u.overlaps w = false)
    ∧ ∀ w ∈ t.windows, w.on < cpr ∧ w.off < cpr ∧ w.on ≠ w.off

/-- The number of windows in a bank's eight lists. -/
def Bank.windowCount (b : Bank) : Nat := (b.tracks.toList.map fun t => t.windows.length).sum

/-- A bank is well formed (R59, R60, R64). -/
def Bank.sound (cpr : Nat) (b : Bank) : Prop :=
  (∀ i : Fin 8, (b.tracks.get i).sound cpr) ∧ b.pool = b.windowCount ∧ b.pool ≤ 64

/-- Both banks are well formed for the CPR in force (R60, R64). -/
def State.banksSound (s : State) : Prop :=
  s.cts.active.sound s.pcu.axis.cpr ∧ s.cts.shadow.sound s.pcu.axis.cpr

/-- One for a seek in progress. -/
def State.seeksInFlight (s : State) : Nat := if s.rft.sync.state = .seeking then 1 else 0

/-- One for a pending commit. -/
def State.commitsInFlight (s : State) : Nat := if s.bsc.commit.isSome then 1 else 0

/-- The long operations are counted as R152 says, and a commit is pending in LOCKED alone (R114). -/
def State.operationsSound (s : State) : Prop :=
  s.rsc.inFlight = s.seeksInFlight + s.commitsInFlight ∧ s.rsc.inFlight + s.rsc.waiting.length ≤ 4
    ∧ (s.bsc.commit.isSome → s.rft.sync.state = .locked)

/-- The ticket that the counter gives `n` tickets after `t` (R105). -/
def ticketAfter : Nat → Byte → Byte
  | 0, t => t
  | n + 1, t => ticketAfter n (nextTicket t)

/-- The completions of this sample that are still waiting, whose order is not settled yet (R153). -/
def Rsc.unsettled (r : Rsc) : List Completion := r.waiting.drop (r.waiting.length - r.recent)

/-- The ticket of the operation in flight. -/
def State.flightTickets (s : State) : List Byte :=
  (match s.rft.sync with
    | .seeking r => [r.ticket]
    | .free => []
    | .locked _ => []
    | .lost _ => [])
  ++ (match s.bsc.commit with
    | some c => [c.ticket]
    | none => [])

/-- The tickets in use: those of the completions waiting, then that of the operation in flight. -/
def State.ticketsInUse (s : State) : List Byte := s.rsc.waiting.map (·.ticket) ++ s.flightTickets

/-- The tickets in use are distinct and 0 is none of them; those of the completions of this sample and of the operation in
flight are the latest that the counter gave, in order; and that of a waiting completion was given only a few tickets
before the next one, three more than stand behind it at most, for the order of a sample is free (R105, R153). -/
def State.ticketsSound (s : State) : Prop :=
  s.ticketsInUse.Nodup ∧ (∀ t ∈ s.ticketsInUse, t ≠ 0) ∧ s.bsc.nextTicket ≠ 0
    ∧ (s.rsc.unsettled.map (·.ticket) ++ s.flightTickets ++ [s.bsc.nextTicket]).IsChain (fun a b => b = nextTicket a)
    ∧ ∀ (i : Nat) (c : Completion), s.rsc.waiting[i]? = some c → ∃ k, 1 ≤ k
      ∧ k ≤ s.rsc.waiting.length - i + s.flightTickets.length + 3 ∧ ticketAfter k c.ticket = s.bsc.nextTicket

/-- The TSU's state is one that R44, R45, R49 and R53 allow. -/
def Tsu.sound (t : Tsu) : Prop :=
  t.history.length ≤ 9 ∧ (t.stalled = true ↔ t.history = []) ∧ (∀ e ∈ t.history, t.lastDir = some e.dir)
    ∧ (t.stalled = true → t.presented = 0 ∧ t.estimate = 0) ∧ (t.overspeedLimit = 0 → t.overspeed = false)

/-- One track's pin, level and held level agree (R90, R93, R95). -/
def Track.sound (enable : Bool) (t : Track) : Prop :=
  t.pin = pinLevel t.polarity t.level ∧ (enable = false → t.level = false) ∧ (t.inhibited = false → t.held = false)

/-- Every track is sound under the global enable. -/
def State.outputsSound (s : State) : Prop := ∀ i : Fin 8, (s.tev.tracks.get i).sound s.tev.enable

/-- A latch is OFF exactly when its edge selection is OFF, and a holdoff runs only when one is set (R124, R125). -/
def Latch.sound (l : Latch) : Prop := (l.arm = .off ↔ l.edge = .off) ∧ (l.holdoff.isSome → l.holdoffUs ≠ 0)

/-- The capture queue and the latches are in a state that R124, R125, R129 and R131 allow. -/
def Lcu.sound (c : Lcu) : Prop :=
  c.queue.length ≤ 32 ∧ (∀ x ∈ c.queue, x.gap = true ↔ x.lostBefore ≠ 0) ∧ ∀ n : Fin 4, (c.latches.get n).sound

/-- The RSC's state is one that R141, R145, R148 to R150, R157 and R158 allow. -/
def Rsc.sound (r : Rsc) : Prop :=
  r.credit ≤ 15 ∧ (r.enable.sync = false → r.sync = none) ∧ (r.enable.fault = false → r.fault = FaultAcc.empty)
    ∧ (r.enable.motion = false → r.motion = MotionAcc.empty) ∧ (r.enable.position = false → r.position = none)
    ∧ (r.timer.isSome ↔ (r.enable.position = true ∧ r.intervalMs ≠ 0)) ∧ ∀ e ∈ r.fresh, e.enabledIn r.enable = true

/-- The receiver's buffer agrees with its LEN (R165, R166). -/
def Rx.sound : Rx → Prop
  | .hunt => True
  | .length => True
  | .body len buf => len.toNat ≤ 240 ∧ buf.length < len.toNat + 2
  | .check len buf _ => len.toNat ≤ 240 ∧ buf.length = len.toNat + 2

/-- What admission compares of a queued request (section 9.3). -/
def Request.key (r : Request) : Byte × Word16 := (r.seq, r.crc)

/-- What admission compares of a cache entry (section 9.3). -/
def CacheEntry.key (e : CacheEntry) : Byte × Word16 := (e.seq, e.crc)

/-- The link's queues are within their bounds, no request stands twice in the cache and the inbound queue, the gap timer
runs exactly inside a frame, and no reply waits on a free line (R164 to R174, R178, R179). -/
def Lkp.sound (k : Lkp) : Prop :=
  k.inbound.length ≤ 4 ∧ k.replies.length ≤ 6 ∧ k.cache.length ≤ 4
    ∧ (k.cache.map CacheEntry.key ++ k.inbound.map Request.key).Nodup
    ∧ k.rx.sound ∧ (k.gapTimer = true ↔ k.rx ≠ .hunt) ∧ (k.tx = .free → k.replies = [])

/-- Every part of the machine is sound. -/
def State.sound (s : State) : Prop :=
  s.axisSound ∧ s.checksSound ∧ s.banksSound ∧ s.operationsSound ∧ s.ticketsSound ∧ s.tsu.sound ∧ s.outputsSound
    ∧ s.lcu.sound ∧ s.rsc.sound ∧ s.lkp.sound

/-! ## Requests and their replies -/

/-- The oldest request of the inbound queue is `r`, of this kind and of the length of its kind, and the LKP executes it
(R175, R176); and where an event of the sample in hand has changed the angle or the speed, none that changes the other is
left (R48). A request that executes elsewhere in a sample executes on `State.pairSpeed`, where this holds. -/
def State.offers (s : State) (kind : Byte) (r : Request) (rest : List Request) : Prop :=
  s.nrstLow = false ∧ s.lkp.inbound = r :: rest ∧ s.lkp.replies.length ≤ 4 ∧ s.lkp.resetPending = false
    ∧ (s.sample.moved = true → s.speedDue = false) ∧ r.kind = kind ∧ requestLength? kind = some r.payload.length

/-- From `s` to `t` the request `r` has left the inbound queue, its reply with this frame has entered the reply queue as
its newest frame, or is being sent on a line that was free, and its cache entry is the newest (R174, R175, R178). -/
def answeredWith (s t : State) (r : Request) (rest : List Request) (frame : List Byte) (resetOk : Bool) : Prop :=
  t.lkp.inbound = rest
    ∧ t.lkp.cache =
      (if s.lkp.cache.length < 4 then s.lkp.cache else s.lkp.cache.drop 1) ++ [{ seq := r.seq, crc := r.crc, frame := frame }]
    ∧ (s.lkp.tx ≠ .free → t.lkp.tx = s.lkp.tx
      ∧ t.lkp.replies = s.lkp.replies ++ [{ frame := frame, resetOk := resetOk }])
    ∧ (s.lkp.tx = .free → s.lkp.replies = [] → t.lkp.replies = []
      ∧ t.lkp.tx = .sending { frame := frame, resetOk := resetOk })

/-- The request `r` has been answered under its own reply kind with a status and the fields after it (R177). -/
def answered (s t : State) (r : Request) (rest : List Request) (status : Byte) (fields : List Byte) : Prop :=
  answeredWith s t r rest (mkFrame r.seq (r.kind + 0x80) (status :: fields)) false

/-- The link's state other than its queues, its counters and TXD is unchanged. -/
def linkKept (s t : State) : Prop :=
  t.lkp.straps = s.lkp.straps ∧ t.lkp.rx = s.lkp.rx ∧ t.lkp.rxLine = s.lkp.rxLine ∧ t.lkp.gapTimer = s.lkp.gapTimer
    ∧ t.lkp.resetCount = s.lkp.resetCount ∧ t.lkp.resetCause = s.lkp.resetCause

/-- What the sample in hand has found and nobody has taken is the same in both states. -/
def sampleKept (s t : State) : Prop :=
  t.sample.inputs = s.sample.inputs ∧ t.sample.ab = s.sample.ab ∧ t.sample.ahead = s.sample.ahead
    ∧ t.sample.moved = s.sample.moved ∧ t.sample.z = s.sample.z
    ∧ t.sample.edges = s.sample.edges ∧ t.sample.refEdges = s.sample.refEdges ∧ t.sample.arrival = s.sample.arrival
    ∧ (t.sample.inSample = true → s.sample.inSample = true)

/-- Apart from the link, `t` is `u` with its tracks evaluated (R83): every register, queue and flag of the other nine
blocks, the reset pin, the commands waiting, and what the sample has found. -/
def evaluatedAs (u t : State) : Prop :=
  t.qdu = u.qdu ∧ t.pcu = u.pcu ∧ t.rft = u.rft ∧ t.tsu = u.tsu ∧ t.cts = u.cts ∧ t.bsc = u.bsc
    ∧ t.tev = u.evaluate.tev ∧ t.lcu = u.lcu ∧ t.rsc = u.rsc ∧ t.nrstLow = u.nrstLow ∧ t.pending = u.pending
    ∧ sampleKept u t

/-- From `s` to `t` the request `r` has been executed with the effect that `u` shows beside `s`, and has been answered
with this status byte and the fields after it; nothing else of the part has changed (R83, R175, R177). -/
def carriedOut (s u t : State) (r : Request) (rest : List Request) (status : Byte) (fields : List Byte) : Prop :=
  answered s t r rest status fields ∧ linkKept s t ∧ t.lkp.counters = s.lkp.counters ∧ t.lkp.resetPending = false
    ∧ evaluatedAs u t

/-- From `s` to `t` the request `r` has been refused with this status byte: it changes no state apart from the link's
queues and cache, and the tracks are evaluated (R83, R176). -/
def refused (s t : State) (r : Request) (rest : List Request) (status : Byte) : Prop :=
  carriedOut s s t r rest status []

/-- The rows that take an event of the open sample. -/
def takesEvent : Instr → Prop
  | .settlingEnd | .latchSettlingEnd _ | .holdoffEnd _ | .step _ | .quadError _ | .indexEvent _ | .latchEdge _ _
  | .stallExpiry | .speedDecay | .positionTimerExpiry _ => True
  | _ => False

/-- The commands, executed one after the other, take the part from one state to another. -/
def runs : List Instr → State → State → Prop
  | [], s, t => t = s
  | c :: cs, s, t => ∃ u, exec c s = .next u ∧ runs cs u t

/-- The RSC of `u` is `r`, apart from the completion list, which the end of a commit pending in `s` may change. -/
def State.reportsAre (s u : State) (r : Rsc) : Prop :=
  { u.rsc with inFlight := r.inFlight, waiting := r.waiting, recent := r.recent } = r
    ∧ (s.bsc.commit = none → u.rsc = r)

/-- The banks of `u` are those of `s` and its tracks are `tev`; or the commit pending in `s` has been carried out, which
swaps the banks and clears the hysteresis memories (R77, R89, R112). -/
def State.tracksAre (s u : State) (tev : Tev) : Prop :=
  (u.cts = s.cts ∧ u.tev = tev)
    ∨ (s.bsc.commit ≠ none ∧ u.bsc.commit = none ∧ u.cts = s.cts.swap ∧ u.tev = tev.clearMemories)

/-- The kind of the request that a request row executes; none for a row that is no request, and for BAD_KIND, which
executes every kind that is no request code. -/
def requestKind : Instr → Option Byte
  | .identify => some 0x01 | .status => some 0x02 | .linkStatus => some 0x03 | .reset => some 0x04
  | .axisGet => some 0x08 | .axisSet => some 0x09 | .positionSet => some 0x0A | .indexCheckSet => some 0x0B
  | .seek => some 0x0C | .seekAbort => some 0x0D | .release => some 0x0E | .syncStatus => some 0x0F
  | .speedSet => some 0x10 | .speedGet => some 0x11
  | .windowAdd => some 0x18 | .windowRemove => some 0x19 | .trackClear => some 0x1A | .trackList => some 0x1B
  | .trackParamSet => some 0x1C | .shadowRevert => some 0x1D | .bankInfo => some 0x1E
  | .commitNow => some 0x20 | .commitAtPosition => some 0x20 | .commitAtIndex => some 0x20 | .commitCancel => some 0x21
  | .outputEnable => some 0x28 | .trackModeSet => some 0x29 | .trackStatus => some 0x2A
  | .latchSet => some 0x30 | .latchArm => some 0x31 | .captureRead => some 0x32 | .captureFlush => some 0x33
  | .reportSet => some 0x38 | .reportGrant => some 0x39 | .reportStatus => some 0x3A
  | .powerOnReset _ | .pinReset _ | .requestReset _ | .startupIdleEnd | .settlingEnd | .latchSettlingEnd _
  | .step _ | .quadError _ | .indexEvent _ | .latchEdge _ _ | .stallExpiry | .speedDecay | .holdoffEnd _
  | .positionTimerExpiry _ | .noise _ | .lengthError _ | .byteError _ | .gapExpiry | .frame _ | .transmitEnd
  | .reportHandOver | .badKind | .sample _ | .goodByte _ | .nrstLow | .rxdIdle => none

/-- From `k` to `k'` a frame has entered the reply queue as its newest, or is being sent on a line that was free
(R178, R179). -/
def framePlaced (k k' : Lkp) (f : Reply) : Prop :=
  (k.tx ≠ .free → k'.tx = k.tx ∧ k'.replies = k.replies ++ [f])
    ∧ (k.tx = .free → k.replies = [] → k'.replies = [] ∧ k'.tx = .sending f)

/-! ## Resets -/

/-- The command resets the part, with this cause, reset count and straps (R181, R182). -/
def State.resetsBy (s : State) (c : Instr) (cause : ResetCause) (count : Word16) (straps : BitVec 2) : Prop :=
  (c = .powerOnReset straps ∧ cause = .powerOn ∧ count = 0)
    ∨ (c = .pinReset straps ∧ cause = .pin ∧ count = s.lkp.resetCount + 1)
    ∨ (c = .requestReset straps ∧ cause = .request ∧ count = s.lkp.resetCount + 1 ∧ s.nrstLow = false
      ∧ s.lkp.tx.endsInReset = true)

/-- The command puts every block into its reset state: a reset of any kind, or NRST driven low (R181). -/
def State.clearedBy (s : State) (c : Instr) : Prop :=
  c = .nrstLow ∨ ∃ cause count straps, s.resetsBy c cause count straps

end Sys2Proof.Machine
end

