-- ==== Sys2Proof/Certificates/Slice0/Obligations.lean ====
section
/-! DEFINITION. The statements for the provers: what the part does at each command, in the words of the rules, and what
every step keeps. A statement about an event of the field says what the event leaves before the sample is settled;
`Obligations.ASampleEndsWithOneEvaluation` says what settling is. -/

open Sys2Proof Sys2Proof.Machine

/-! ## The machine -/

/-- A step takes the command at the front of the queue and executes it on the state with the queue's rest; on an empty
queue the part idles (the model's choice, log 1). -/
def Obligations.StepRunsTheCommandInFront : Prop :=
  (∀ (c : Instr) (rest : List Instr) (s : State), s.pending = c :: rest → step s = exec c { s with pending := rest })
    ∧ ∀ s : State, s.pending = [] → step s = .next s

/-- Every command ends in a next state, in every state of the part, and leaves the queue of commands as it is. -/
def Obligations.EveryCommandHasANextState : Prop :=
  ∀ (c : Instr) (s : State), ∃ t, exec c s = .next t ∧ t.pending = s.pending

/-! ## Resets and the start of the link -/

/-- Every reset, and NRST low, puts the RFT, TSU, CTS, BSC and TEV into the states of their tables, and the first
evaluation after it leaves every level 0 and counts no switch (R41, R58, R81, R104, R120). Every reset, and NRST low,
puts the QDU, PCU and LCU into the states of their tables and starts settling; the samples found and not taken are
dropped (R21, R140). -/
def Obligations.ResetsClearTheBlocksOfTheField : Prop :=
  (∀ (s : State) (c : Instr), s.clearedBy c → ∃ t, exec c s = .next t
     ∧ t.rft = { sync := .free, cause := .reset
                 configured := { check := false, tolerance := 4, limit := 3, policy := .observe }
                 inForce := { check := false, tolerance := 4, limit := 3, policy := .observe } }
     ∧ t.tsu = { timebase := 0, ticking := false, history := [], lastDir := none, estimate := 0, presented := 0
                 stalled := true, overspeed := false, depth := 4, stallMs := 100, overspeedLimit := 0 }
     ∧ (∀ i : Fin 8, t.cts.active.tracks.get i = { windows := [], leadUs := 0, hysteresis := 0 }
       ∧ t.cts.shadow.tracks.get i = { windows := [], leadUs := 0, hysteresis := 0 })
     ∧ t.cts.active.pool = 0 ∧ t.cts.shadow.pool = 0 ∧ t.cts.generation = 0 ∧ t.cts.dirty = false
     ∧ t.bsc = { commit := none, nextTicket := 1 }
     ∧ t.tev.enable = false
     ∧ (∀ i : Fin 8, t.tev.tracks.get i =
         { mode := .normal, safe := .off, polarity := .activeHigh, stallInhibit := false, evaluated := false
           memory := none, inhibited := true, held := false, level := false, switches := 0, lastSwitch := none
           pin := false }
       ∧ (t.evaluate.tev.tracks.get i).level = false ∧ (t.evaluate.tev.tracks.get i).pin = false
       ∧ (t.evaluate.tev.tracks.get i).switches = 0)
     ∧ t.rsc.inFlight = 0 ∧ t.rsc.waiting = [] ∧ t.rsc.sync = none ∧ t.rsc.motion = MotionAcc.empty ∧ t.rsc.fresh = []
     ∧ t.rsc.hello.isSome = true)
  ∧ (∀ (s : State) (c : Instr), s.clearedBy c → ∃ t, exec c s = .next t
     ∧ t.qdu = { a := ⟨0, false⟩, b := ⟨0, false⟩, z := ⟨0, false⟩, settling := some 4, ref := none, zRef := none
                 quadErrors := 0 }
     ∧ t.pcu = { axis := { cpr := 4096, countMode := .x4, invert := false, filterLen := 3, indexEnable := true }
                 pos := { rev := 0, angle := 0 }, dir := .fwd }
     ∧ (∀ n : Fin 4, t.lcu.latches.get n =
         { edge := .off, mode := .continuous, holdoffUs := 0, filterLen := 3, filter := ⟨0, false⟩, settling := some 4
           arm := .off, holdoff := none, lost := 0, suppressed := 0 })
     ∧ t.lcu.queue = [] ∧ t.lcu.tally = 0 ∧ t.rsc.fault = FaultAcc.empty
     ∧ t.sample.inSample = false ∧ t.sample.ahead = false ∧ t.sample.moved = false ∧ t.stepDue = none ∧ t.quadDue = false
     ∧ t.indexFormed = false ∧ t.edgeDue = none
     ∧ ∀ n : Fin 4, t.refDue n = false)

/-- Every reset puts the RSC and the LKP into the states of their tables, with the cause, the reset count and the straps
of that reset (R161, R162, R181, R184, R197). That NRST is high after a power-on reset, also of a part whose NRST was
low, and that one PIN_RESET stands for a whole low pulse, is the model's choice (log 11, log 24). -/
def Obligations.ResetsClearTheReportsAndTheLink : Prop :=
  ∀ (s : State) (c : Instr) (cause : ResetCause) (count : Word16) (straps : BitVec 2),
    s.resetsBy c cause count straps → ∃ t, exec c s = .next t ∧ t.nrstLow = false
    ∧ t.rsc = { enable := { sync := true, fault := true, motion := false, capture := false, position := false }
                intervalMs := 0, timer := none, hello := some cause, sync := none, fault := ⟨false, false, false, false⟩
                motion := ⟨false, false, false, false, 0⟩, position := none, fresh := [], inFlight := 0, waiting := []
                recent := 0, credit := 0, seq := 0 }
    ∧ t.lkp = { straps := straps, rx := .hunt, rxLine := .waitByteTime, gapTimer := false, inbound := [], replies := []
                cache := [], tx := .startupIdle, counters := ⟨0, 0, 0, 0, 0, 0, 0, 0, 0⟩, resetPending := false
                resetCount := count, resetCause := cause }

/-- NRST driven low holds the part in its reset state: the lines drive low, a frame in transmission and the queues are
gone and TXD is high; the count rises by one when NRST returns high (R95, R181, R184). While NRST is low nothing acts on
the part but the end of the low pulse and a power-on (R181). -/
def Obligations.NrstLowHoldsThePartInReset : Prop :=
  (∀ (s : State) (b : BitVec 2), ∃ t u, exec .nrstLow s = .next t ∧ t.nrstLow = true
     ∧ (∀ i : Fin 8, (t.tev.tracks.get i).pin = false)
     ∧ t.lkp.tx = .startupIdle ∧ t.lkp.rx = .hunt ∧ t.lkp.gapTimer = false ∧ t.lkp.inbound = [] ∧ t.lkp.replies = []
     ∧ t.lkp.cache = [] ∧ t.lkp.counters = ⟨0, 0, 0, 0, 0, 0, 0, 0, 0⟩ ∧ t.lkp.resetPending = false
     ∧ t.lkp.resetCount = s.lkp.resetCount
     ∧ exec (.pinReset b) t = .next u ∧ u.nrstLow = false ∧ u.lkp.resetCount = s.lkp.resetCount + 1)
  ∧ (∀ (c : Instr) (s : State), s.nrstLow = true → (∀ b, c ≠ .powerOnReset b) → (∀ b, c ≠ .pinReset b) → c ≠ .nrstLow →
     exec c s = .next s)

/-- At the end of the start-up idle time HELLO is handed over, without credit and with the sequence counter's number,
and its transmission begins; nothing else changes (R147, R195, R197). That it goes even before a waiting reply is the
model's choice (log 25). -/
def Obligations.StartupIdleEndSendsHello : Prop :=
  ∀ (s : State) (cause : ResetCause), s.nrstLow = false → s.lkp.tx = .startupIdle → s.rsc.hello = some cause →
    exec .startupIdleEnd s = .next
      { s with
        rsc := { s.rsc with hello := none, seq := s.rsc.seq + 1 }
        lkp := { s.lkp with
          tx := .sending
            { frame := mkFrame s.rsc.seq 0x70 ([cause.code, 0x01] ++ word16 s.lkp.resetCount ++ [0x08, 0x0C])
              resetOk := false } } }

/-- RESET is answered OK, its reply is the one whose end makes the REQUEST reset, and from then on no request is
executed (R182). -/
def Obligations.ResetRequestMarksTheReset : Prop :=
  (∀ (s : State) (r : Request) (rest : List Request), s.offers 0x04 r rest →
    ∃ t, exec .reset s = .next t ∧ answeredWith s t r rest (mkFrame r.seq 0x84 [0x00]) true ∧ linkKept s t
      ∧ t.lkp.counters = s.lkp.counters ∧ t.lkp.resetPending = true ∧ evaluatedAs s t)
    ∧ ∀ (s : State) (c : Instr), s.lkp.resetPending = true → ((requestKind c).isSome = true ∨ c = .badKind) →
      exec c s = .next s

/-! ## Filters, samples and decoding -/

/-- The input filters: the count moves by one towards the sampled level and stops at its rails, and the filtered level
follows at the rails; each encoder filter is updated at every sample and is clear after every reset (R1). A shorter
length clamps the count at the next sample (R2); that of two lengths set before one sample the one in force at the sample
clamps alone is the model's choice (log 19). -/
def Obligations.InputFiltersCountTheSamples : Prop :=
  (∀ (len : Nat) (f : Filter), f.count ≤ len →
    (f.update len true).count = (if f.count = len then f.count else f.count + 1)
      ∧ (f.update len true).level = (if (f.update len true).count = len then true else f.level)
      ∧ (f.update len false).count = (if f.count = 0 then 0 else f.count - 1)
      ∧ (f.update len false).level = (if (f.update len false).count = 0 then false else f.level))
    ∧ (∀ (len : Nat) (level : Bool) (f : Filter), (f.update len level).count ≤ len)
    ∧ (∀ (level : Bool) (f : Filter), f.update 0 level = { count := 0, level := level })
    ∧ (∀ (len : Nat) (level : Bool) (f : Filter), len < f.count →
      f.update len level = Filter.update len level { f with count := len })
    ∧ (∀ (s : State) (lv : Levels), s.nrstLow = false → ∃ t, exec (.sample lv) s = .next t
      ∧ t.qdu.a = s.qdu.a.update s.pcu.axis.filterLen lv.qa ∧ t.qdu.b = s.qdu.b.update s.pcu.axis.filterLen lv.qb
      ∧ t.qdu.z = s.qdu.z.update s.pcu.axis.filterLen lv.qz)
    ∧ ∀ (s : State) (c : Instr), s.clearedBy c → ∃ t, exec c s = .next t
      ∧ t.qdu.a = { count := 0, level := false } ∧ t.qdu.b = { count := 0, level := false }
      ∧ t.qdu.z = { count := 0, level := false }

/-- A sample, once the one before it has been closed, where one is open (R9): the timebase rises (the first sample after
a reset carries 0), the seven filters run, settling counts down or the references follow, the sample's changes are
found, a change of the pair being decoded with the axis configuration of this moment, no moment before it can be read
any more, the RSC has folded the events of the sample before and settled the order of its completions, and nothing else
of the part changes (R1, R3, R4, R7, R9, R42, R122; log 29 for the folding, log 31 for the order). The sample starts
with `moved` clear (log 34). -/
def Obligations.SampleReadsEveryInput : Prop :=
  ∀ (before s : State) (lv : Levels), before.nrstLow = false → s = before.closeSample →
    (before.sample.inSample = false → s = before) ∧ s.sample.inSample = false
    ∧ ∃ u : State, exec (.sample lv) before = .next u.settle
    ∧ u.tsu = { s.tsu with
        timebase := if s.tsu.ticking then s.tsu.timebase + 1 else s.tsu.timebase, ticking := true }
    ∧ u.qdu.a = s.qdu.a.update s.pcu.axis.filterLen lv.qa ∧ u.qdu.b = s.qdu.b.update s.pcu.axis.filterLen lv.qb
    ∧ u.qdu.z = s.qdu.z.update s.pcu.axis.filterLen lv.qz ∧ u.qdu.quadErrors = s.qdu.quadErrors
    ∧ (∀ n, s.qdu.settling = some n → u.qdu.settling = some (n - 1) ∧ u.qdu.ref = s.qdu.ref
      ∧ u.qdu.zRef = s.qdu.zRef ∧ u.sample.ab = none ∧ u.sample.z = none)
    ∧ (s.qdu.settling = none → u.qdu.settling = none
      ∧ u.qdu.ref = some { a := u.qdu.a.level, b := u.qdu.b.level } ∧ u.qdu.zRef = some u.qdu.z.level
      ∧ (∀ p, s.qdu.ref = some p → u.sample.ab =
        if p = { a := u.qdu.a.level, b := u.qdu.b.level } then none
        else PairChange.event s.pcu.axis { old := p, new := { a := u.qdu.a.level, b := u.qdu.b.level } })
      ∧ ∀ z, s.qdu.zRef = some z → u.sample.z =
        if s.pcu.axis.indexEnable = true ∧ z ≠ u.qdu.z.level then some u.qdu.z.level else none)
    ∧ (∀ n : Fin 4, u.lcu.latches.get n =
        { s.lcu.latches.get n with
          filter := (s.lcu.latches.get n).filter.update (s.lcu.latches.get n).filterLen (lv.lt.get n)
          settling := (s.lcu.latches.get n).settling.map fun k => k - 1 }
      ∧ u.sample.edges.get n =
        if (s.lcu.latches.get n).settling = none
            ∧ (u.lcu.latches.get n).filter.level ≠ (s.lcu.latches.get n).filter.level then
          some (if (u.lcu.latches.get n).filter.level then .rise else .fall)
        else none)
    ∧ u.sample.inputs = lv ∧ u.sample.inSample = true ∧ u.sample.ahead = false ∧ u.sample.moved = false
    ∧ u.sample.refEdges = u.sample.edges ∧ u.sample.arrival = none
    ∧ u.sample.views = [] ∧ u.sample.reach = 0
    ∧ u.pcu = s.pcu ∧ u.rft = s.rft ∧ u.cts = s.cts ∧ u.bsc = s.bsc ∧ u.tev = s.tev ∧ u.lcu.queue = s.lcu.queue
    ∧ u.lcu.tally = s.lcu.tally ∧ (∃ code, u.rsc = s.rsc.takenAll.ordered code) ∧ u.lkp = s.lkp ∧ u.nrstLow = s.nrstLow

/-- A sample is settled by one evaluation once no event of it is left; before the next sample every event left is taken,
in an order the model leaves free (log 3), each as the row of its event takes it, the tracks are evaluated, and then the
new sample is taken (R9, R83, R97). Before a request that reads the position or the speed, the step, the stall expiry
and the decay of the sample are taken, step and stall expiry in either order (R12, R48, R52; log 30); so they are before
any other request that executes once an event of the sample has changed the angle or the speed, for the tracks are
evaluated with both of one sample (R48, R83; log 34 for the model's choice). -/
def Obligations.ASampleEndsWithOneEvaluation : Prop :=
  (∀ s : State, s.sample.inSample = true → s.anyDue = false →
    s.settle = { s.evaluate with sample := { s.sample with inSample := false } })
    ∧ (∀ s : State, s.sample.inSample = false ∨ s.anyDue = true → s.settle = s)
    ∧ (∀ s : State, s.sample.inSample = true → (State.drain maxSampleEvents s).anyDue = false
      ∧ s.closeSample.tev = (State.drain maxSampleEvents s).evaluate.tev ∧ s.closeSample.sample.inSample = false)
    ∧ (∀ s : State, s.nrstLow = false → s.sample.inSample = true →
      ∃ (cs : List Instr) (t : State), (∀ c ∈ cs, takesEvent c) ∧ runs cs s t
        ∧ { s.closeSample with free := s.free } = t.settle)
    ∧ (∀ (s : State) (lv : Levels), s.nrstLow = false → s.sample.inSample = true →
      exec (.sample lv) s = exec (.sample lv) s.closeSample)
    ∧ (∀ s : State, s.stepDue = none → s.stallDue = false → s.decayDue = false → s.catchUp = s)
    ∧ (∀ s : State, s.catchUp.stepDue = none ∧ s.catchUp.stallDue = false ∧ s.catchUp.decayDue = false
      ∧ s.catchUp.lkp = s.lkp ∧ s.catchUp.nrstLow = s.nrstLow ∧ s.catchUp.pending = s.pending
      ∧ s.catchUp.tsu.timebase = s.tsu.timebase)
    ∧ (∀ (s : State) (d : Dir), s.nrstLow = false → s.stepDue = some d → s.stallDue = false → s.tsu.stallMs ≠ 0 →
      s.sample.ahead = false → ∃ turn, exec (.step (.take turn)) { s with free := s.free + 1 } = .next s.catchUp)
    ∧ (∀ (s : State) (d : Dir), s.nrstLow = false → s.stepDue = some d → s.stallDue = true → s.tsu.stallMs ≠ 0 →
      s.sample.ahead = false → ∃ turn, exec (.step (.take turn)) { s with free := s.free + 1 } = .next s.catchUp
        ∨ ∃ u, exec .stallExpiry { s with free := s.free + 1 } = .next u
          ∧ exec (.step (.take turn)) { u with free := s.free + 2 } = .next s.catchUp)
    ∧ (∀ s : State, s.nrstLow = false → s.stepDue = none → s.stallDue = true →
      exec .stallExpiry { s with free := s.free + 1 } = .next s.catchUp)
    ∧ (∀ s : State, s.nrstLow = false → s.stallDue = false → s.decayDue = true →
      exec .speedDecay { s with free := s.free + 1 } = .next s.catchUp)
    ∧ ∀ (c : Instr) (s : State), (requestKind c).isSome = true ∨ c = .badKind → s.sample.moved = true →
      exec c s = exec c s.catchUp ∨ (exec c s = .next s ∧ exec c s.catchUp = .next s.catchUp)

/-- The end of encoder settling, of a latch filter's settling and of a holdoff, each at its sample (R3, R122, R125). The
position-report timer expires: the snapshot of the view named replaces the POSITION accumulator, the timer starts again
from this sample, and nothing else changes (R157, log 4 for the view). -/
def Obligations.SettlingsHoldoffsAndThePositionTimerEnd : Prop :=
  ((∀ s : State, s.nrstLow = false → s.sample.inSample = true → s.qdu.settling = some 0 →
     exec .settlingEnd s = .next (State.settle
       { s with qdu := { s.qdu with
           settling := none, ref := some { a := s.qdu.a.level, b := s.qdu.b.level }, zRef := some s.qdu.z.level } }))
     ∧ (∀ (s : State) (n : Fin 4), s.nrstLow = false → s.sample.inSample = true →
       (s.lcu.latches.get n).settling = some 0 →
       exec (.latchSettlingEnd n) s = .next (State.settle
         { s with lcu := { s.lcu with
             latches := s.lcu.latches.set n { s.lcu.latches.get n with settling := none } } }))
     ∧ ∀ (s : State) (n : Fin 4) (since : Word32), s.nrstLow = false → s.sample.inSample = true →
       (s.lcu.latches.get n).holdoff = some since →
       (s.lcu.latches.get n).holdoffUs * 10 ≤ (s.tsu.timebase - since).toNat →
       exec (.holdoffEnd n) s = .next (State.settle
         { s with lcu := { s.lcu with
             latches := s.lcu.latches.set n { s.lcu.latches.get n with holdoff := none } } }))
  ∧ (∀ (s : State) (view : Nat) (since : Word32), s.nrstLow = false → s.sample.inSample = true →
     s.rsc.timer = some since → s.rsc.enable.position = true → s.rsc.intervalMs ≠ 0 →
     s.rsc.intervalMs * 10000 ≤ (s.tsu.timebase - since).toNat →
     s.stepDue = none → s.stallDue = false → s.decayDue = false →
     s.viewAt 0 = { pos := s.pcu.pos, sync := s.rft.sync.state, generation := s.cts.generation }
     ∧ exec (.positionTimerExpiry view) s = .next (State.settle
       { s with
         rsc := { s.rsc with
           position := some
             { state := (s.viewAt view).sync, pos := (s.viewAt view).pos, generation := (s.viewAt view).generation
               speed := s.tsu.presented, time := s.tsu.timebase }
           timer := some s.tsu.timebase } }))

/-- The decoding table: which change of the pair yields which step in each count mode, that a change of both levels
yields none and is an error, and that inversion turns every step round (R4, R5, R6). A change of filtered Z forms an
index event exactly when it is a rise going forward or a fall going in reverse, by the direction after the step of the
sample; it is taken after the step and after a quadrature error (R7, R9, R28). -/
def Obligations.PairChangesAndIndexEdgesDecodeByTheTables : Prop :=
  ((∀ axis : AxisConfig, axis.invert = false →
     let p0 : Pair := ⟨false, false⟩
     let p1 : Pair := ⟨true, false⟩
     let p2 : Pair := ⟨true, true⟩
     let p3 : Pair := ⟨false, true⟩
     let step (a b : Pair) : Option Dir := PairChange.stepDir axis { old := a, new := b }
     (axis.countMode = .x4 →
       step p0 p1 = some .fwd ∧ step p1 p2 = some .fwd ∧ step p2 p3 = some .fwd ∧ step p3 p0 = some .fwd
         ∧ step p1 p0 = some .rev ∧ step p2 p1 = some .rev ∧ step p3 p2 = some .rev ∧ step p0 p3 = some .rev)
       ∧ (axis.countMode = .x2 →
         step p0 p1 = some .fwd ∧ step p1 p2 = none ∧ step p2 p3 = some .fwd ∧ step p3 p0 = none
           ∧ step p1 p0 = some .rev ∧ step p2 p1 = none ∧ step p3 p2 = some .rev ∧ step p0 p3 = none)
       ∧ (axis.countMode = .x1 →
         step p0 p1 = some .fwd ∧ step p1 p2 = none ∧ step p2 p3 = none ∧ step p3 p0 = none
           ∧ step p1 p0 = some .rev ∧ step p2 p1 = none ∧ step p3 p2 = none ∧ step p0 p3 = none)
       ∧ (∀ p, step p p = none)
       ∧ ∀ p : Pair, step p { a := !p.a, b := !p.b } = none)
     ∧ (∀ (axis : AxisConfig) (c : PairChange), PairChange.stepDir { axis with invert := true } c =
       (PairChange.stepDir { axis with invert := false } c).map Dir.opposite)
     ∧ (∀ old new : Pair, (PairChange.isError { old := old, new := new } = true ↔ old.a ≠ new.a ∧ old.b ≠ new.b))
     ∧ (∀ (axis : AxisConfig) (c : PairChange), (c.isError = true → c.event axis = some .error)
       ∧ (∀ d, c.stepDir axis = some d → c.event axis = some (.step d))
       ∧ (c.isError = false → c.stepDir axis = none → c.event axis = none))
     ∧ ∀ s : State, s.sample.inSample = true →
       (∀ d, s.sample.ab = some (.step d) → s.stepDue = some d ∧ s.quadDue = false)
       ∧ (s.sample.ab = some .error → s.stepDue = none ∧ s.quadDue = true)
       ∧ (s.sample.ab = none → s.stepDue = none ∧ s.quadDue = false))
  ∧ (∀ (s : State) (rise : Bool), s.sample.inSample = true → s.sample.z = some rise →
     (s.stepDue = none → (s.indexFormed = true ↔ (rise = true ↔ s.pcu.dir = .fwd)))
       ∧ (∀ d, s.stepDue = some d → (s.indexFormed = true ↔ (rise = true ↔ d = .fwd)))
       ∧ (s.indexDue = true ↔ s.indexFormed = true ∧ s.stepDue = none ∧ s.quadDue = false))

/-! ## Steps -/

/-- The position one step further, as R10 states it: the angle counts up or down, and the revolution count moves where
it wraps. A step in FREE or LOST with no commit pending: the position and the direction, the TSU and its MOTION events,
and nothing else (R9, R10, R38, R44, R54). STEP may let the TSU alone go ahead, and the other blocks follow at the next
STEP, with the same result (R151, log 4). Both parts set the sample's flag `moved` (R48, log 34). -/
def Obligations.StepMovesThePositionByOneCount : Prop :=
  (∀ (cpr : Nat) (p : AbsPos), 8 ≤ cpr → p.angle < cpr →
     (p.angle + 1 < cpr → p.step cpr .fwd = { rev := p.rev, angle := p.angle + 1 })
       ∧ (p.angle + 1 = cpr → p.step cpr .fwd = { rev := p.rev + 1, angle := 0 })
       ∧ (0 < p.angle → p.step cpr .rev = { rev := p.rev, angle := p.angle - 1 })
       ∧ (p.angle = 0 → p.step cpr .rev = { rev := p.rev - 1, angle := cpr - 1 })
       ∧ travel cpr p (p.step cpr .fwd) = 1 ∧ travel cpr p (p.step cpr .rev) = -1
       ∧ ∀ (d : Dir) (turn : ArrivalTurn) (s : State), s.nrstLow = false → s.stepDue = some d → s.pcu.axis.cpr = cpr →
         s.pcu.pos = p → ∃ t, exec (.step (.take turn)) s = .next t ∧ t.pcu = { s.pcu with pos := p.step cpr d, dir := d })
  ∧ (∀ (s : State) (d : Dir) (turn : ArrivalTurn), s.nrstLow = false → s.stepDue = some d →
     (s.rft.sync = .free ∨ ∃ r, s.rft.sync = .lost r) → s.bsc.commit = none → s.sample.ahead = false →
     ∃ kept, (kept = none ∨ kept = s.sample.arrival) ∧ exec (.step (.take turn)) s = .next (State.settle
       { s with
         pcu := { s.pcu with pos := s.pcu.pos.step s.pcu.axis.cpr d, dir := d }
         tsu := s.tsu.step d
         rsc := s.rsc.addMotions
           ((if s.tsu.stalled then [.stallLeft] else [])
             ++ (if s.tsu.lastDir = some d.opposite then [.reversal] else [])
             ++ (if s.tsu.overspeed = false ∧ (s.tsu.step d).overspeed = true then [.overspeedEntered] else [])
             ++ (if s.tsu.overspeed = true ∧ (s.tsu.step d).overspeed = false then [.overspeedLeft] else []))
         sample := { s.sample with ab := none, moved := true, views := [], reach := 0, arrival := kept } }))
  ∧ (∀ (s : State) (d : Dir), s.nrstLow = false → s.stepDue = some d → s.sample.ahead = false →
     ∃ u : State, exec (.step .speed) s = .next u
     ∧ u = { s with
         tsu := (s.applyStep d).tsu, rsc := (s.applyStep d).rsc
         sample := { s.sample with ahead := true, moved := true } }
     ∧ ∀ turn : ArrivalTurn, exec (.step (.take turn)) u = exec (.step (.take turn)) s)
  ∧ ∀ (s : State) (d : Dir), (s.sample.ahead = true → (s.applyStep d).tsu = s.tsu ∧ (s.applyStep d).rsc = s.rsc)
     ∧ (s.sample.ahead = false → (s.applyStep d).tsu = s.tsu.step d)

/-- What a step leaves in the TSU: the step is the newest entry of a history of at most 9, a reversal has emptied it
first, STALLED is clear, the count estimate is formed from the newest k entries, and the presented speed is the estimate
(R44, R45, R46, R51). The span is the sum of the consecutive intervals, each formed modulo 2^32 (R43). OVERSPEED is
tested when the presented speed changes, and only then: set above the limit, cleared at the limit less its sixteenth,
never set with limit 0 (R53); a step tests it with the new estimate. -/
def Obligations.StepFormsTheSpeed : Prop :=
  (∀ (t : Tsu) (d : Dir), ∃ k span : Nat,
     (t.step d).history
       = ({ time := t.timebase, dir := d } :: (if t.lastDir = some d.opposite then [] else t.history)).take 9
     ∧ (t.step d).lastDir = some d ∧ (t.step d).stalled = false ∧ (t.step d).timebase = t.timebase
     ∧ k = min (t.depth + 1) (t.step d).history.length ∧ span = spanOf ((t.step d).history.take k)
     ∧ (k < 2 → (t.step d).estimate = 0)
     ∧ (2 ≤ k → d = .fwd → (t.step d).estimate = (((k - 1) * 10000000 / span : Nat) : Int))
     ∧ (2 ≤ k → d = .rev → (t.step d).estimate = -(((k - 1) * 10000000 / span : Nat) : Int))
     ∧ (t.step d).presented = (t.step d).estimate
     ∧ (t.step d).overspeed =
       (if (t.step d).estimate = t.presented then t.overspeed
       else if t.overspeedLimit = 0 then false
       else if t.overspeed = false then decide (t.overspeedLimit < (t.step d).estimate.natAbs)
       else decide (¬(t.step d).estimate.natAbs ≤ t.overspeedLimit - t.overspeedLimit / 16))
     ∧ ((t.step d).depth, (t.step d).stallMs, (t.step d).overspeedLimit) = (t.depth, t.stallMs, t.overspeedLimit))
  ∧ ((∀ since now : Word32, elapsed since now = (now.toNat + 4294967296 - since.toNat) % 4294967296)
     ∧ (∀ e : StepTime, spanOf [] = 0 ∧ spanOf [e] = 0)
     ∧ (∀ (newer older : StepTime) (rest : List StepTime),
       spanOf (newer :: older :: rest) = elapsed older.time newer.time + spanOf (older :: rest)))
  ∧ (∀ (t : Tsu) (v : Int),
     t.present v = { t with
       presented := v
       overspeed :=
         if v = t.presented then t.overspeed
         else if t.overspeedLimit = 0 then false
         else if t.overspeed = false then decide (t.overspeedLimit < v.natAbs)
         else decide (¬v.natAbs ≤ t.overspeedLimit - t.overspeedLimit / 16) })

/-! ## The reference: steps, quadrature errors, index events, latch edges -/

/-- A step in SEEKING with no commit pending: the seek fails when the travel from its start exceeds its limit, unless
the sample carries its reference event: an index event in direction `d`, or a change of the seek's latch that its `edge`
selects; else only the position, the TSU and its MOTION events change (R7, R26, R29, R33). The step sets the sample's
flag `moved` (log 34). -/
def Obligations.StepInSeekingChecksTheTravel : Prop :=
  ∀ (s : State) (d : Dir) (turn : ArrivalTurn) (r : SeekRecord) (due : Bool), s.nrstLow = false → s.stepDue = some d →
    s.rft.sync = .seeking r → s.bsc.commit = none →
    (due = true ↔ (r.source = .index ∧ ∃ rise, s.sample.z = some rise ∧ (rise = true ↔ d = .fwd))
      ∨ ∃ n k, r.source = .latch n ∧ s.sample.refEdges.get n = some k
        ∧ (r.edgeCode = 3 ∨ (r.edgeCode = 1 ∧ k = .rise) ∨ (r.edgeCode = 2 ∧ k = .fall))) →
    ∃ u : State, ∃ p : AbsPos, exec (.step (.take turn)) s = .next u.settle ∧ p = s.pcu.pos.step s.pcu.axis.cpr d
    ∧ u.pcu = { s.pcu with pos := p, dir := d } ∧ u.tsu = (s.applyStep d).tsu
    ∧ (r.travelLimit ≠ 0
        ∧ r.travelLimit < ((p.rev - r.start.rev).toInt * s.pcu.axis.cpr + (p.angle - r.start.angle : Int)).natAbs
        ∧ due = false →
      u.rft = { s.rft with sync := .free, cause := .travel }
        ∧ u.rsc = ((s.applyStep d).rsc.syncEvent .free .travel s.tsu.timebase).complete
          { ticket := r.ticket, op := .seek, outcome := .failedTravel, time := s.tsu.timebase, pos := none
            generation := none })
    ∧ (¬(r.travelLimit ≠ 0
        ∧ r.travelLimit < ((p.rev - r.start.rev).toInt * s.pcu.axis.cpr + (p.angle - r.start.angle : Int)).natAbs
        ∧ due = false) →
      u.rft = s.rft ∧ u.rsc = (s.applyStep d).rsc)
    ∧ u.qdu = s.qdu ∧ u.cts = s.cts ∧ u.bsc = s.bsc ∧ u.tev = s.tev ∧ u.lcu = s.lcu ∧ u.lkp = s.lkp
    ∧ u.sample.ab = none ∧ u.sample.moved = true ∧ u.sample.z = s.sample.z ∧ u.sample.edges = s.sample.edges
    ∧ u.sample.refEdges = s.sample.refEdges

/-- A step in LOCKED, with a commit pending or without: with checking in force, travel of more than CPR plus the
tolerance since the last index is a missing index, which moves the last index by one revolution and counts as an index
error; at the limit the state becomes LOST (R36, R37). The banks and the tracks stay, but for a swap of the pending
commit. The step sets the sample's flag `moved` (log 34). -/
def Obligations.StepInLockDetectsAMissingIndex : Prop :=
  ∀ (s : State) (d : Dir) (turn : ArrivalTurn) (r : RefRecord), s.nrstLow = false → s.stepDue = some d →
    s.rft.sync = .locked r →
    ∃ u : State, ∃ p : AbsPos, exec (.step (.take turn)) s = .next u.settle ∧ p = s.pcu.pos.step s.pcu.axis.cpr d
    ∧ u.pcu = { s.pcu with pos := p, dir := d } ∧ u.tsu = (s.applyStep d).tsu
    ∧ u.qdu = s.qdu ∧ u.lcu = s.lcu ∧ u.lkp = s.lkp
    ∧ s.tracksAre u s.tev ∧ (s.bsc.commit = none → u.bsc = s.bsc)
    ∧ u.sample.ab = none ∧ u.sample.moved = true ∧ u.sample.z = s.sample.z ∧ u.sample.edges = s.sample.edges
    ∧ u.sample.refEdges = s.sample.refEdges
    ∧ ((r.index = none ∨ s.rft.inForce.check = false) → u.rft = s.rft ∧ s.reportsAre u (s.applyStep d).rsc)
    ∧ ∀ ix, r.index = some ix → s.rft.inForce.check = true → ∀ trav : Int,
      trav = (p.rev - ix.last.rev).toInt * s.pcu.axis.cpr + (p.angle - ix.last.angle : Int) →
      (trav.natAbs ≤ s.pcu.axis.cpr + s.rft.inForce.tolerance → u.rft = s.rft ∧ s.reportsAre u (s.applyStep d).rsc)
      ∧ (s.pcu.axis.cpr + s.rft.inForce.tolerance < trav.natAbs →
        ∀ r' : RefRecord, r' = { r with
            consec := r.consec + 1
            index := some { ix with
              last := { ix.last with rev := if 0 < trav then ix.last.rev + 1 else ix.last.rev - 1 } } } →
        (r.consec + 1 < s.rft.inForce.limit → u.rft = { s.rft with sync := .locked r' }
          ∧ s.reportsAre u ((s.applyStep d).rsc.addFault .indexMissing))
        ∧ (s.rft.inForce.limit ≤ r.consec + 1 → u.rft = { s.rft with sync := .lost r', cause := .indexErrors }
          ∧ s.reportsAre u
            (((s.applyStep d).rsc.addFault .indexMissing).syncEvent .lost .indexErrors s.tsu.timebase)))

/-- A step in LOCKED with a commit pending, of either policy: on arrival at the angle of an AT_POSITION commit it ends
SWAPPED at the position the step left; a loss of sync at the same step ends the commit ABANDONED unless an arrival is
taken first; otherwise it goes on waiting. An arrival that the BSC takes after the sample's index event is kept until
then (R110, R112, R114, R115, R117, R118). A swap clears the hysteresis memories; the tracks stay otherwise (R89). Where
the arrival goes before a loss, the views of the sample show the swap before the RFT's loss, or after it, and a capture
may read each of them (R128, log 4). That a loss at the step abandons an AT_INDEX commit also in the sample of an index
event is the model's choice (R117, log 32). -/
def Obligations.StepAtTheCommitPositionSwaps : Prop :=
  ∀ (s : State) (d : Dir) (turn : ArrivalTurn) (r : RefRecord) (c : Commit) (p : AbsPos), ∀ lost : Bool,
    s.nrstLow = false → s.stepDue = some d → s.rft.sync = .locked r → s.bsc.commit = some c →
    p = s.pcu.pos.step s.pcu.axis.cpr d →
    (lost = true ↔ s.rft.inForce.check = true ∧ s.rft.inForce.limit ≤ r.consec + 1 ∧ ∃ ix, r.index = some ix
      ∧ s.pcu.axis.cpr + s.rft.inForce.tolerance < (travel s.pcu.axis.cpr ix.last p).natAbs) →
    ∃ u : State, exec (.step (.take turn)) s = .next u.settle ∧ u.pcu = { s.pcu with pos := p, dir := d }
    ∧ u.tsu = (s.applyStep d).tsu ∧ u.qdu = s.qdu ∧ u.lcu = s.lcu ∧ u.lkp = s.lkp
    ∧ u.bsc.nextTicket = s.bsc.nextTicket ∧ u.cts.shadow = s.cts.shadow
    ∧ (lost = false → u.rft.sync.state = .locked) ∧ (lost = true → u.rft.sync.state = .lost)
    ∧ (c.policy = .atPosition p.angle → turn = .beforeLoss ∨ turn = .afterRft ∨ (lost = false ∧ (turn = .afterLoss
        ∨ ¬∃ rise, s.sample.z = some rise ∧ (rise = true ↔ d = .fwd))) →
      u.bsc.commit = none ∧ u.cts.active = s.cts.shadow ∧ u.cts.generation = s.cts.generation + 1 ∧ u.cts.dirty = false
        ∧ u.rsc.inFlight = s.rsc.inFlight - 1
        ∧ u.rsc.waiting = s.rsc.waiting ++ [{ ticket := c.ticket, op := .commit, outcome := .swapped
                                              time := s.tsu.timebase, pos := some p
                                              generation := some (s.cts.generation + 1) }]
        ∧ u.tev = s.tev.clearMemories)
    ∧ (c.policy = .atPosition p.angle → lost = true → turn = .beforeLoss →
      u.viewAt 2 = { pos := p, sync := .locked, generation := s.cts.generation }
        ∧ u.viewAt 1 = { pos := p, sync := .locked, generation := s.cts.generation + 1 } ∧ u.sample.reach = 2)
    ∧ (c.policy = .atPosition p.angle → lost = true → turn = .afterRft →
      u.viewAt 2 = { pos := p, sync := .locked, generation := s.cts.generation }
        ∧ u.viewAt 1 = { pos := p, sync := .lost, generation := s.cts.generation } ∧ u.sample.reach = 2)
    ∧ (lost = true → c.policy ≠ .atPosition p.angle ∨ turn = .afterLoss ∨ turn = .afterIndex →
      u.bsc.commit = none ∧ u.cts = s.cts ∧ u.rsc.inFlight = s.rsc.inFlight - 1
        ∧ u.rsc.waiting = s.rsc.waiting ++ [{ ticket := c.ticket, op := .commit, outcome := .abandoned
                                              time := s.tsu.timebase, pos := none, generation := none }]
        ∧ u.tev = s.tev)
    ∧ (lost = false → c.policy ≠ .atPosition p.angle →
      u.bsc.commit = s.bsc.commit ∧ u.cts = s.cts ∧ u.rsc.inFlight = s.rsc.inFlight ∧ u.rsc.waiting = s.rsc.waiting
        ∧ u.tev = s.tev)
    ∧ (lost = false → c.policy = .atPosition p.angle → turn = .afterIndex →
      (∃ rise, s.sample.z = some rise ∧ (rise = true ↔ d = .fwd)) →
      u.bsc.commit = s.bsc.commit ∧ u.cts = s.cts ∧ u.rsc.inFlight = s.rsc.inFlight ∧ u.rsc.waiting = s.rsc.waiting
        ∧ u.tev = s.tev ∧ u.sample.arrival = some p)

/-- A quadrature error, with a commit pending or without: the counter rises to at most 65535, the FAULT event is
recorded, a seek fails, a lock is lost, and no step is made (R6, R30, R33). With `eventFirst` the index event of the
sample is taken with it (R117, log 4). QUAD_ERROR may let the QDU alone go ahead, and the other blocks follow at the next
QUAD_ERROR (R151, log 4). The banks and the tracks stay, but for a swap of the pending commit. -/
def Obligations.QuadratureErrorFailsTheSeekOrLosesTheLock : Prop :=
  ∀ (s : State) (turn : LossTurn), s.nrstLow = false → s.quadDue = true →
    ∃ u counted : State, exec (.quadError (.take turn)) s = .next u.settle
    ∧ (s.sample.ahead = false → counted = { s with
        qdu := { s.qdu with quadErrors := if s.qdu.quadErrors = 0xFFFF then 0xFFFF else s.qdu.quadErrors + 1 }
        rsc := s.rsc.addFault .quadError, sample := { s.sample with ahead := true } })
    ∧ (s.sample.ahead = true → counted = s)
    ∧ exec (.quadError .count) s = .next counted ∧ u.qdu = counted.qdu
    ∧ ((s.rft.sync = .free ∨ ∃ r, s.rft.sync = .lost r) →
      u.rft = s.rft ∧ s.reportsAre u counted.rsc)
    ∧ (∀ r, s.rft.sync = .seeking r → u.rft = { s.rft with sync := .free, cause := .quadError }
      ∧ s.reportsAre u ((counted.rsc.syncEvent .free .quadError s.tsu.timebase).complete
        { ticket := r.ticket, op := .seek, outcome := .failedQuad, time := s.tsu.timebase, pos := none
          generation := none }))
    ∧ (∀ r, s.rft.sync = .locked r → u.rft = { s.rft with sync := .lost r, cause := .quadError }
      ∧ s.reportsAre u (counted.rsc.syncEvent .lost .quadError s.tsu.timebase))
    ∧ u.pcu = s.pcu ∧ u.tsu = s.tsu ∧ u.lcu = s.lcu ∧ u.lkp = s.lkp
    ∧ s.tracksAre u s.tev ∧ (s.bsc.commit = none → u.bsc = s.bsc)
    ∧ u.sample.ab = none ∧ u.sample.moved = s.sample.moved ∧ u.sample.edges = s.sample.edges
    ∧ u.sample.refEdges = s.sample.refEdges
    ∧ u.sample.z = (if turn = .eventFirst ∧ s.indexFormed = true then none else s.sample.z)

/-- An index event in SEEKING with source INDEX and no commit pending locks: position, reference record, cause, in-force
settings, completion (R16, R27, R33, R39). In FREE, in LOST and in a seek with a latch source it changes nothing of the
RFT and the position (R8, R26, R38). A lock sets the sample's flag `moved` (log 34). -/
def Obligations.IndexEventLocksAnIndexSeek : Prop :=
  ∀ (s : State) (turn : LossTurn), s.nrstLow = false → s.indexDue = true → s.bsc.commit = none →
    ∃ u : State, exec (.indexEvent turn) s = .next u.settle
    ∧ (∀ r, s.rft.sync = .seeking r → r.source = .index →
      u.pcu = { s.pcu with pos := { rev := 0, angle := r.refValue } }
      ∧ u.rft = { s.rft with
          sync := .locked
            { source := .index, refValue := r.refValue, lockedAt := s.tsu.timebase
              index := some { pos := r.refValue, last := { rev := 0, angle := r.refValue } }, consec := 0
              lastD := none }
          cause := .reference, inForce := s.rft.configured }
      ∧ u.tev = s.tev.clearMemories ∧ u.sample.moved = true
      ∧ u.rsc = (s.rsc.syncEvent .locked .reference s.tsu.timebase).complete
          { ticket := r.ticket, op := .seek, outcome := .locked, time := s.tsu.timebase
            pos := some { rev := 0, angle := r.refValue }, generation := none })
    ∧ ((s.rft.sync = .free ∨ (∃ r, s.rft.sync = .lost r) ∨ ∃ r n, s.rft.sync = .seeking r ∧ r.source = .latch n) →
      u.pcu = s.pcu ∧ u.rft = s.rft ∧ u.tev = s.tev ∧ u.rsc = s.rsc ∧ u.sample.moved = s.sample.moved)
    ∧ u.qdu = s.qdu ∧ u.tsu = s.tsu ∧ u.cts = s.cts ∧ u.bsc = s.bsc ∧ u.lcu = s.lcu ∧ u.lkp = s.lkp
    ∧ u.sample.z = none ∧ u.sample.ab = s.sample.ab ∧ u.sample.edges = s.sample.edges
    ∧ u.sample.refEdges = s.sample.refEdges

/-- An index event in LOCKED, with a commit pending or without: the in-force settings are loaded; without `index_pos`
the index is learnt; with checking off only the last index moves; within the tolerance the index passes, and under
CORRECT the position moves by -d, which clears the memories; beyond it an index error is taken, and at the limit the
state becomes LOST (R34, R35, R36, R39). The banks and the tracks stay otherwise, but for a swap of the pending commit.
A correction, and nothing else here, sets the sample's flag `moved` (log 34). -/
def Obligations.IndexEventInLockLearnsChecksAndCorrects : Prop :=
  ∀ (s : State) (turn : LossTurn) (r r0 : RefRecord) (cfg : CheckSet) (d : Int), s.nrstLow = false →
    s.indexDue = true → s.rft.sync = .locked r → cfg = s.rft.configured →
    r0 = { r with consec := if s.rft.inForce.check = true ∧ cfg.check = false then 0 else r.consec } →
    ∃ u : State, exec (.indexEvent turn) s = .next u.settle
    ∧ u.rft.configured = cfg ∧ u.rft.inForce = cfg
    ∧ (r.index = none → u.rft.sync = .locked { r0 with index := some { pos := s.pcu.pos.angle, last := s.pcu.pos } }
      ∧ u.rft.cause = s.rft.cause ∧ u.pcu = s.pcu ∧ u.sample.moved = s.sample.moved ∧ s.reportsAre u s.rsc
        ∧ s.tracksAre u s.tev)
    ∧ (∀ ix, r.index = some ix → cfg.check = false →
      u.rft.sync = .locked { r0 with index := some { ix with last := s.pcu.pos } }
      ∧ u.rft.cause = s.rft.cause ∧ u.pcu = s.pcu ∧ u.sample.moved = s.sample.moved ∧ s.reportsAre u s.rsc
        ∧ s.tracksAre u s.tev)
    ∧ (∀ ix, r.index = some ix → cfg.check = true → d = signedDiff s.pcu.axis.cpr s.pcu.pos.angle ix.pos →
      (d.natAbs ≤ cfg.tolerance → cfg.policy = .observe ∨ d = 0 →
        u.rft.sync = .locked { r0 with consec := 0, lastD := some d, index := some { ix with last := s.pcu.pos } }
        ∧ u.rft.cause = s.rft.cause ∧ u.pcu = s.pcu ∧ u.sample.moved = s.sample.moved ∧ s.reportsAre u s.rsc
        ∧ s.tracksAre u s.tev)
      ∧ (d.natAbs ≤ cfg.tolerance → cfg.policy = .correct → d ≠ 0 →
        u.pcu = { s.pcu with pos := s.pcu.pos.correct s.pcu.axis.cpr d }
        ∧ u.rft.sync = .locked { r0 with
            consec := 0, lastD := some d
            index := some { ix with last := s.pcu.pos.correct s.pcu.axis.cpr d } }
        ∧ u.rft.cause = s.rft.cause ∧ u.tev = s.tev.clearMemories ∧ s.tracksAre u s.tev.clearMemories
        ∧ s.reportsAre u s.rsc ∧ u.sample.moved = true)
      ∧ (cfg.tolerance < d.natAbs → ∀ r' : RefRecord,
        r' = { r0 with
          consec := r0.consec + 1, lastD := some d, index := some { ix with last := s.pcu.pos } } →
        u.pcu = s.pcu ∧ s.tracksAre u s.tev ∧ u.sample.moved = s.sample.moved
        ∧ (r0.consec + 1 < cfg.limit → u.rft.sync = .locked r' ∧ u.rft.cause = s.rft.cause
          ∧ s.reportsAre u (s.rsc.addFault .indexError))
        ∧ (cfg.limit ≤ r0.consec + 1 → u.rft.sync = .lost r' ∧ u.rft.cause = .indexErrors
          ∧ s.reportsAre u ((s.rsc.addFault .indexError).syncEvent .lost .indexErrors s.tsu.timebase))))
    ∧ u.qdu = s.qdu ∧ u.tsu = s.tsu ∧ u.lcu = s.lcu ∧ u.lkp = s.lkp
    ∧ (s.bsc.commit = none → u.bsc = s.bsc)
    ∧ u.sample.z = none ∧ u.sample.ab = s.sample.ab ∧ u.sample.edges = s.sample.edges
    ∧ u.sample.refEdges = s.sample.refEdges

/-- The arithmetic of positions: the signed circular difference lies in its range and is congruent to the raw
difference, a correction by it leaves the angle at `index_pos` and moves the revolution count by at most one across the
wrap, and travel is the difference of the absolute counts (R11, R17, R35). -/
def Obligations.CorrectionsEndAtTheIndexPosition : Prop :=
  ∀ (cpr q : Nat) (p : AbsPos) (d : Int), 8 ≤ cpr → p.angle < cpr → q < cpr → d = signedDiff cpr p.angle q →
    -((cpr / 2 : Nat) : Int) ≤ d ∧ d ≤ (cpr : Int) - 1 - ((cpr / 2 : Nat) : Int)
      ∧ (d - ((p.angle : Int) - (q : Int))) % (cpr : Int) = 0
      ∧ (p.correct cpr d).angle = q
      ∧ ((p.angle : Int) - d < 0 → (p.correct cpr d).rev = p.rev - 1)
      ∧ ((cpr : Int) ≤ (p.angle : Int) - d → (p.correct cpr d).rev = p.rev + 1)
      ∧ (0 ≤ (p.angle : Int) - d → (p.angle : Int) - d < cpr → (p.correct cpr d).rev = p.rev)
      ∧ ∀ now : AbsPos, travel cpr p now
        = (now.rev - p.rev).toInt * (cpr : Int) + ((now.angle : Int) - (p.angle : Int))

/-- The field events that end a pending commit besides the step: an index event swaps an AT_INDEX commit, and one that
keeps an arrival swaps an AT_POSITION commit at the position of its step, at the position the RFT has left; a loss of
sync at that event, or a quadrature error, abandons the commit unless the swap is taken first (R111, R112, R114 to
R118). A swap clears the hysteresis memories; the tracks stay otherwise, but for a correction (R13, R89). An index event
that the BSC takes before the change to LOST of a quadrature error is taken whole then (R111, R117, log 4). -/
def Obligations.FieldEventsEndThePendingCommit : Prop :=
  (∀ (s : State) (turn : LossTurn) (r : RefRecord) (c : Commit), s.nrstLow = false → s.indexDue = true →
    s.rft.sync = .locked r → s.bsc.commit = some c →
    ∃ u : State, exec (.indexEvent turn) s = .next u.settle ∧ u.bsc.nextTicket = s.bsc.nextTicket ∧ u.cts.shadow = s.cts.shadow
    ∧ (u.rft.sync.state = .locked ∨ u.rft.sync.state = .lost)
    ∧ ∀ at' : Option AbsPos,
      at' = (match c.policy with
        | .atIndex => some u.pcu.pos
        | .atPosition q => s.sample.arrival.filter fun p => decide (q = p.angle)) →
      (∀ p, at' = some p → turn = .eventFirst ∨ u.rft.sync.state = .locked →
        u.bsc.commit = none ∧ u.cts.active = s.cts.shadow ∧ u.cts.generation = s.cts.generation + 1
          ∧ u.cts.dirty = false ∧ u.rsc.inFlight = s.rsc.inFlight - 1
          ∧ u.rsc.waiting = s.rsc.waiting ++ [{ ticket := c.ticket, op := .commit, outcome := .swapped
                                                time := s.tsu.timebase, pos := some p
                                                generation := some (s.cts.generation + 1) }]
          ∧ u.tev = s.tev.clearMemories)
      ∧ (u.rft.sync.state = .lost → at' = none ∨ turn = .lossFirst →
        u.bsc.commit = none ∧ u.cts = s.cts ∧ u.rsc.inFlight = s.rsc.inFlight - 1
          ∧ u.rsc.waiting = s.rsc.waiting ++ [{ ticket := c.ticket, op := .commit, outcome := .abandoned
                                                time := s.tsu.timebase, pos := none, generation := none }]
          ∧ u.tev = s.tev)
      ∧ (u.rft.sync.state = .locked → at' = none →
        u.bsc.commit = some c ∧ u.cts = s.cts ∧ u.rsc.inFlight = s.rsc.inFlight ∧ u.rsc.waiting = s.rsc.waiting
          ∧ u.tev = if u.pcu.pos = s.pcu.pos then s.tev else s.tev.clearMemories))
    ∧ ∀ (s : State) (turn : LossTurn) (r : RefRecord) (c : Commit), s.nrstLow = false → s.quadDue = true →
      s.rft.sync = .locked r → s.bsc.commit = some c →
      ∃ u : State, exec (.quadError (.take turn)) s = .next u.settle ∧ u.rft = { s.rft with sync := .lost r, cause := .quadError }
      ∧ u.bsc = { s.bsc with commit := none } ∧ u.cts.shadow = s.cts.shadow
      ∧ u.rsc.inFlight = s.rsc.inFlight - 1
      ∧ (turn = .eventFirst → s.indexFormed = true → c.policy = .atIndex →
        u.cts.active = s.cts.shadow ∧ u.cts.generation = s.cts.generation + 1
          ∧ u.rsc.waiting = s.rsc.waiting ++ [{ ticket := c.ticket, op := .commit, outcome := .swapped
                                                time := s.tsu.timebase, pos := some s.pcu.pos
                                                generation := some (s.cts.generation + 1) }]
          ∧ u.tev = s.tev.clearMemories)
      ∧ (turn = .lossFirst ∨ s.indexFormed = false ∨ (∃ q, c.policy = .atPosition q) →
        u.cts = s.cts
          ∧ u.rsc.waiting = s.rsc.waiting ++ [{ ticket := c.ticket, op := .commit, outcome := .abandoned
                                                time := s.tsu.timebase, pos := none, generation := none }]
          ∧ u.tev = s.tev)
      ∧ u.sample.z = (if turn = .eventFirst ∧ s.indexFormed = true then none else s.sample.z)

/-- A latch edge that the LCU takes, and that locks no seek, by the arm state, the selection and the holdoff of its latch:
ignored, suppressed, a record stored with the gap that the tally marks, or a capture lost to a full queue (R122, R124 to
R127, R129 to R131). RISE selects a rise, FALL a fall, BOTH either and OFF none (R124). The record reads position, sync
state and generation in the view of the sample that the command names; view 0 is the present, the others are those kept,
latest first, and none lies before the latest capture of the sample (R128, R129, log 4). The LCU takes the edges of a
sample after its step, in latch order (R12, R129); an edge whose turn has not come is left (log 2). -/
def Obligations.LatchEdgesAreCapturedSuppressedOrLost : Prop :=
  (∀ (s : State) (n : Fin 4) (view : Nat) (turn : EdgeTurn) (k : EdgeKind) (l : Latch) (v : View) (sel : Bool),
     s.nrstLow = false → s.edgeDue = some n → s.sample.edges.get n = some k → l = s.lcu.latches.get n →
     v = s.viewAt (min view s.sample.reach) →
     (sel = true ↔ (l.edge = .rise ∧ k = .rise) ∨ (l.edge = .fall ∧ k = .fall) ∨ l.edge = .both) →
     (turn = .lcu view ∨ (turn = .both view ∧ ∀ r k', s.rft.sync = .seeking r → r.source = .latch n →
       s.sample.refEdges.get n = some k' →
       ¬(r.edgeCode = 3 ∨ (r.edgeCode = 1 ∧ k' = .rise) ∨ (r.edgeCode = 2 ∧ k' = .fall)))) →
     ∃ u : State, exec (.latchEdge n turn) s = .next u.settle
     ∧ ((l.arm ≠ .armed ∨ sel = false) → u.lcu = s.lcu ∧ u.rsc = s.rsc ∧ u.sample.reach = s.sample.reach)
     ∧ (∀ since, l.arm = .armed → sel = true → l.holdoff = some since →
       (s.tsu.timebase - since).toNat < l.holdoffUs * 10 →
       u.rsc = s.rsc ∧ u.sample.reach = s.sample.reach ∧ u.lcu = { s.lcu with
         latches := s.lcu.latches.set n
           { l with suppressed := if l.suppressed = 0xFFFF then 0xFFFF else l.suppressed + 1 } })
     ∧ (l.arm = .armed → sel = true →
       (∀ since, l.holdoff = some since → l.holdoffUs * 10 ≤ (s.tsu.timebase - since).toNat) →
       ∀ l' : Latch, l' = { l with
           holdoff := if l.holdoffUs = 0 then none else some s.tsu.timebase
           arm := if l.mode = .single then .spent else .armed } →
       u.sample.reach = min view s.sample.reach
       ∧ (s.lcu.queue.length < 32 → u.rsc = s.rsc ∧ u.lcu =
         { latches := s.lcu.latches.set n l'
           queue := s.lcu.queue ++ [{ latch := n, edge := k, pos := v.pos, time := s.tsu.timebase
                                      referenced := decide (v.sync = .locked), gap := decide (s.lcu.tally ≠ 0)
                                      lostBefore := s.lcu.tally, generation := v.generation }]
           tally := 0 })
       ∧ (32 ≤ s.lcu.queue.length → u.rsc = s.rsc.addFault .captureLost ∧ u.lcu =
         { latches := s.lcu.latches.set n { l' with lost := if l.lost = 0xFFFF then 0xFFFF else l.lost + 1 }
           queue := s.lcu.queue
           tally := if s.lcu.tally = 255 then 255 else s.lcu.tally + 1 }))
     ∧ u.sample.edges = s.sample.edges.set n none ∧ u.sample.views = s.sample.views
     ∧ u.sample.refEdges = (if turn = .lcu view then s.sample.refEdges else s.sample.refEdges.set n none)
     ∧ u.sample.ab = s.sample.ab ∧ u.sample.z = s.sample.z ∧ u.sample.moved = s.sample.moved
     ∧ u.qdu = s.qdu ∧ u.pcu = s.pcu ∧ u.rft = s.rft ∧ u.tsu = s.tsu ∧ u.cts = s.cts ∧ u.bsc = s.bsc
     ∧ u.tev = s.tev ∧ u.lkp = s.lkp)
  ∧ (∀ s : State, s.viewAt 0 = { pos := s.pcu.pos, sync := s.rft.sync.state, generation := s.cts.generation }
     ∧ (∀ i x, s.sample.views[i]? = some x → s.viewAt (i + 1) = x)
     ∧ ∀ i, s.sample.views.length < i → s.viewAt i = s.viewAt 0)
  ∧ ∀ (s : State) (n : Fin 4),
    (s.edgeDue = some n ↔ s.sample.inSample = true ∧ s.stepDue = none ∧ (s.sample.edges.get n).isSome = true
      ∧ ∀ m : Fin 4, m < n → s.sample.edges.get m = none)
    ∧ (s.edgeDue ≠ some n → ∀ view, exec (.latchEdge n (.lcu view)) s = .next s
      ∧ exec (.latchEdge n (.both view)) s = .next s)

/-- A latch edge that the RFT takes: in a seek whose source is that latch, an edge that the seek's `edge` selects locks,
whatever the latch's own configuration; the record has no index position (R16, R26, R27, R33). That holds also in the
sample in which the SEEK executes, where the SEEK is taken first (R198). Any other edge changes nothing of the RFT. That
the RFT takes the edge of each latch by itself, before the LCU, after it, or with it, is the model's reading (log 17).
Taken with it, the LCU reads the view of the sample after the lock that the command names: 0 is the lock, 1 the moment
before it, and so on (R128, log 4). A lock sets the sample's flag `moved` (log 34). -/
def Obligations.LatchEdgeLocksALatchSeek : Prop :=
  (∀ (s w : State) (n : Fin 4) (turn : EdgeTurn) (k : EdgeKind) (r : SeekRecord) (x : Rsc), s.nrstLow = false →
     s.sample.inSample = true → s.stepDue = none → s.rft.sync = .seeking r → r.source = .latch n →
     s.sample.refEdges.get n = some k →
     (r.edgeCode = 3 ∨ (r.edgeCode = 1 ∧ k = .rise) ∨ (r.edgeCode = 2 ∧ k = .fall)) →
     (turn = .rft ∨ (s.edgeDue = some n ∧ ∃ view, turn = .both view)) →
     x = (s.rsc.syncEvent .locked .reference s.tsu.timebase).complete
       { ticket := r.ticket, op := .seek, outcome := .locked, time := s.tsu.timebase
         pos := some { rev := 0, angle := r.refValue }, generation := none } →
     w = { s with
       pcu := { s.pcu with pos := { rev := 0, angle := r.refValue } }
       rft := { s.rft with
         sync := .locked
           { source := .latch n, refValue := r.refValue, lockedAt := s.tsu.timebase, index := none, consec := 0
             lastD := none }
         cause := .reference, inForce := s.rft.configured }
       sample := { s.sample with
         views := { pos := s.pcu.pos, sync := .seeking, generation := s.cts.generation } :: s.sample.views } } →
     ∃ u : State, exec (.latchEdge n turn) s = .next u.settle
     ∧ u.pcu = w.pcu ∧ u.rft = w.rft ∧ u.tev = s.tev.clearMemories
     ∧ (turn = .rft → u.rsc = x ∧ u.lcu = s.lcu ∧ u.sample.edges = s.sample.edges)
     ∧ (∀ view k' v, turn = .both view → s.sample.edges.get n = some k' →
       v = w.viewAt (min view (s.sample.reach + 1)) →
       u.lcu = s.lcu.takeEdge n k' s.tsu.timebase v
         ∧ u.rsc = (if s.lcu.losesEdge n k' s.tsu.timebase then x.addFault .captureLost else x)
         ∧ u.sample.edges = s.sample.edges.set n none
         ∧ (view = 0 →
           v = { pos := { rev := 0, angle := r.refValue }, sync := .locked, generation := s.cts.generation })
         ∧ (view = 1 → v = { pos := s.pcu.pos, sync := .seeking, generation := s.cts.generation }))
     ∧ u.sample.refEdges = s.sample.refEdges.set n none ∧ u.sample.views = w.sample.views
     ∧ u.sample.ab = s.sample.ab ∧ u.sample.z = s.sample.z ∧ u.sample.moved = true
     ∧ u.qdu = s.qdu ∧ u.tsu = s.tsu ∧ u.cts = s.cts ∧ u.bsc = s.bsc ∧ u.lkp = s.lkp)
  ∧ (∀ (s : State) (n : Fin 4) (k : EdgeKind), s.nrstLow = false → s.sample.inSample = true → s.stepDue = none →
     s.sample.refEdges.get n = some k →
     (∀ r, s.rft.sync = .seeking r → r.source = .latch n →
       ¬(r.edgeCode = 3 ∨ (r.edgeCode = 1 ∧ k = .rise) ∨ (r.edgeCode = 2 ∧ k = .fall))) →
     exec (.latchEdge n .rft) s = .next
       (State.settle { s with sample := { s.sample with refEdges := s.sample.refEdges.set n none } }))
  ∧ ∀ (s : State) (n : Fin 4),
    s.sample.inSample = false ∨ s.stepDue ≠ none ∨ s.sample.refEdges.get n = none →
    exec (.latchEdge n .rft) s = .next s

/-! ## Speed, stall and the position timer -/

/-- The stall time expires: the history is emptied, both speeds become 0, STALLED is set, a drop to 0 clears OVERSPEED,
the MOTION events go to the RSC (R50, R53, R54). At a sample with no step the presented speed is lowered by the elapsed
time once that exceeds the mean interval; OVERSPEED is tested (R47, R53, R54). Nothing else changes but the sample's
flag `moved`, which both set (log 34). -/
def Obligations.StallExpiryAndDecayLowerTheSpeed : Prop :=
  (∀ (s : State) (newest : StepTime) (older : List StepTime), s.nrstLow = false → s.sample.inSample = true →
     s.tsu.stalled = false → s.tsu.history = newest :: older →
     s.tsu.stallMs * 10000 ≤ (s.tsu.timebase - newest.time).toNat →
     exec .stallExpiry s = .next (State.settle
       { s with
         tsu := { s.tsu with
           history := [], estimate := 0, presented := 0, stalled := true
           overspeed := if s.tsu.presented = 0 then s.tsu.overspeed else false }
         rsc := s.rsc.addMotions (.stallEntered ::
           if s.tsu.overspeed = true ∧ s.tsu.presented ≠ 0 then [.overspeedLeft] else [])
         sample := { s.sample with moved := true } }))
  ∧ (∀ (s : State) (k e span : Nat) (v : Int), s.nrstLow = false → s.sample.inSample = true → s.stepDue = none →
     k = min (s.tsu.depth + 1) s.tsu.history.length → span = spanOf (s.tsu.history.take k) →
     (∀ newest older, s.tsu.history = newest :: older → e = (s.tsu.timebase - newest.time).toNat) →
     v = (if k < 2 then 0
       else if span < e * (k - 1) then s.tsu.estimate.sign * (min s.tsu.estimate.natAbs (10000000 / e) : Nat)
       else s.tsu.estimate) →
     v ≠ s.tsu.presented →
     exec .speedDecay s = .next (State.settle
       { s with
         tsu := s.tsu.present v
         rsc := s.rsc.addMotions
           ((if s.tsu.overspeed = false ∧ (s.tsu.present v).overspeed = true then [.overspeedEntered] else [])
             ++ (if s.tsu.overspeed = true ∧ (s.tsu.present v).overspeed = false then [.overspeedLeft] else []))
         sample := { s.sample with moved := true } }))

/-! ## Tracks and lines -/

/-- What an evaluation tests: the lead, its cap and LEAD_CLIPPED, the effective position, and the raw level of the
windows of ACTIVE that cover it and allow the direction; the current window is such a window by its index, and where no
two windows overlap it is the only one (R61, R62, R64, R84, R85, R86). Hysteresis: an equal raw level
changes nothing; a differing one takes effect when the memory is absent, the direction is that of the memory, or the
circular distance from the memory's position reaches the effective hysteresis, and then the memory records it; otherwise
it is held. A clearing empties the memory of every track and touches nothing else (R87, R88, R89). -/
def Obligations.EvaluationTestsTheWindowsWithHysteresis : Prop :=
  (∀ (s : State) (i : Fin 8) (tab : TrackTable) (uncapped pe : Nat), tab = s.cts.active.tracks.get i →
     8 ≤ s.pcu.axis.cpr → s.pcu.pos.angle < s.pcu.axis.cpr →
     uncapped = s.tsu.presented.natAbs * tab.leadUs / 1000000 → pe = effectivePosition s.evalInputs tab →
     leadCounts s.evalInputs tab = min uncapped (s.pcu.axis.cpr / 2)
       ∧ (leadClipped s.evalInputs tab = true ↔ s.pcu.axis.cpr / 2 < uncapped)
       ∧ pe < s.pcu.axis.cpr
       ∧ (s.pcu.dir = .fwd → (pe : Int) = ((s.pcu.pos.angle : Int) + leadCounts s.evalInputs tab) % s.pcu.axis.cpr)
       ∧ (s.pcu.dir = .rev → (pe : Int) = ((s.pcu.pos.angle : Int) - leadCounts s.evalInputs tab) % s.pcu.axis.cpr)
       ∧ (rawLevel s.evalInputs tab = true ↔ ∃ w ∈ tab.windows,
         (if w.on < w.off then w.on ≤ pe ∧ pe < w.off else w.on ≤ pe ∨ pe < w.off)
           ∧ (w.dir = .both ∨ (w.dir = .fwd ∧ s.pcu.dir = .fwd) ∨ (w.dir = .rev ∧ s.pcu.dir = .rev)))
       ∧ (currentWindow s.evalInputs tab = none ↔ rawLevel s.evalInputs tab = false)
       ∧ (∀ j, currentWindow s.evalInputs tab = some j → ∃ w, tab.windows[j]? = some w
         ∧ (if w.on < w.off then w.on ≤ pe ∧ pe < w.off else w.on ≤ pe ∨ pe < w.off)
         ∧ (w.dir = .both ∨ (w.dir = .fwd ∧ s.pcu.dir = .fwd) ∨ (w.dir = .rev ∧ s.pcu.dir = .rev)))
       ∧ (tab.windows.Pairwise (fun u w => u.overlaps w = false) → ∀ (j : Nat) (w : Window), tab.windows[j]? = some w →
         (if w.on < w.off then w.on ≤ pe ∧ pe < w.off else w.on ≤ pe ∨ pe < w.off) →
         w.dir = .both ∨ (w.dir = .fwd ∧ s.pcu.dir = .fwd) ∨ (w.dir = .rev ∧ s.pcu.dir = .rev) →
         currentWindow s.evalInputs tab = some j))
  ∧ ((∀ (s : State) (i : Fin 8) (tab : TrackTable) (old new : Track) (pe he : Nat),
     tab = s.cts.active.tracks.get i → old = s.tev.tracks.get i → new = s.evaluate.tev.tracks.get i →
     pe = effectivePosition s.evalInputs tab → he = min tab.hysteresis (s.pcu.axis.cpr / 2) →
     (rawLevel s.evalInputs tab = old.evaluated → new.evaluated = old.evaluated ∧ new.memory = old.memory)
       ∧ (rawLevel s.evalInputs tab ≠ old.evaluated →
         (old.memory = none ∨ ∃ m, old.memory = some m ∧ (m.dir = s.pcu.dir
           ∨ he ≤ min ((m.position + s.pcu.axis.cpr - pe) % s.pcu.axis.cpr)
             ((pe + s.pcu.axis.cpr - m.position) % s.pcu.axis.cpr))) →
         new.evaluated = rawLevel s.evalInputs tab ∧ new.memory = some { position := pe, dir := s.pcu.dir })
       ∧ (∀ m, rawLevel s.evalInputs tab ≠ old.evaluated → old.memory = some m → m.dir ≠ s.pcu.dir →
         min ((m.position + s.pcu.axis.cpr - pe) % s.pcu.axis.cpr)
           ((pe + s.pcu.axis.cpr - m.position) % s.pcu.axis.cpr) < he →
         new.evaluated = old.evaluated ∧ new.memory = old.memory))
     ∧ ∀ (t : Tev) (i : Fin 8), t.clearMemories.enable = t.enable
       ∧ t.clearMemories.tracks.get i = { t.tracks.get i with memory := none })

/-- From evaluated level to line, at each evaluation: the inhibit condition and its first reason, the held level, the
level and cause by the first row of the table that applies, the pin through the polarity, and the switching record (R90
to R96). -/
def Obligations.LevelsFollowEnableModeAndInhibits : Prop :=
  ∀ (s : State) (i : Fin 8) (old new : Track) (inhibited : Bool),
    old = s.tev.tracks.get i → new = s.evaluate.tev.tracks.get i →
    (inhibited = true ↔ s.rft.sync.state ≠ .locked ∨ s.tsu.overspeed = true
      ∨ (old.stallInhibit = true ∧ s.tsu.stalled = true)) →
    (new.mode = old.mode ∧ new.safe = old.safe ∧ new.polarity = old.polarity ∧ new.stallInhibit = old.stallInhibit
      ∧ s.evaluate.tev.enable = s.tev.enable)
    ∧ new.inhibited = inhibited
    ∧ new.held = (if inhibited then (if old.inhibited then old.held else old.level) else false)
    ∧ (s.tev.enable = false → new.level = false ∧ trackCause s.evalInputs new = .disabled)
    ∧ (s.tev.enable = true → old.mode = .forceOn → new.level = true ∧ trackCause s.evalInputs new = .forced)
    ∧ (s.tev.enable = true → old.mode = .forceOff → new.level = false ∧ trackCause s.evalInputs new = .forced)
    ∧ (s.tev.enable = true → old.mode = .normal → inhibited = true →
      (new.level = match old.safe with
        | .off => false
        | .on => true
        | .hold => new.held)
      ∧ (s.rft.sync.state ≠ .locked → trackCause s.evalInputs new = .inhibitedSync)
      ∧ (s.rft.sync.state = .locked → s.tsu.overspeed = true → trackCause s.evalInputs new = .inhibitedOverspeed)
      ∧ (s.rft.sync.state = .locked → s.tsu.overspeed = false → trackCause s.evalInputs new = .inhibitedStall))
    ∧ (s.tev.enable = true → old.mode = .normal → inhibited = false →
      new.level = new.evaluated ∧ trackCause s.evalInputs new = .evaluated)
    ∧ (old.polarity = .activeHigh → new.pin = new.level) ∧ (old.polarity = .activeLow → new.pin = !new.level)
    ∧ (new.level = old.level → new.switches = old.switches ∧ new.lastSwitch = old.lastSwitch)
    ∧ (new.level ≠ old.level → new.switches = old.switches + 1 ∧ new.lastSwitch = some s.tsu.timebase)

/-! ## Reports -/

/-- What the RSC records: an event of an enabled kind reaches it, and an event of a disabled kind is discarded. A SYNC
event is recorded with its change, the latest one with a count; fault events leave bits, MOTION events bits and a count
of reversals, folded in the order in which they came (R23, R148, R149, R150). At the hand-over of a report of their own
kind some fault or MOTION events may still come after it, as long as the report carries something; every other event is
in (R142, R151; log 29 for the free choice of them). A completion turns an operation in flight into the newest waiting
entry; the order of the completions of one sample, the newest `recent` of those waiting, is settled later, and may be
any (R152, R153; log 31 for the free choice of it). -/
def Obligations.TheReportSchedulerFoldsEvents : Prop :=
  ∀ (r : Rsc) (state : SyncState) (cause : SyncCause) (now : Word32) (k : FaultKind) (ks : List MotionKind)
    (c : Completion),
    (r.enable.sync = false → r.syncEvent state cause now = r)
    ∧ (r.enable.sync = true → r.sync = none → r.syncEvent state cause now =
      { r with sync := some { state := state, cause := cause, changes := 1, time := now } })
    ∧ (∀ a, r.enable.sync = true → r.sync = some a → r.syncEvent state cause now = { r with
        sync := some { state := state, cause := cause, time := now
                       changes := if a.changes = 255 then 255 else a.changes + 1 } })
    ∧ (r.enable.fault = false → r.addFault k = r)
    ∧ (r.enable.fault = true → r.addFault k = { r with fresh := r.fresh ++ [.fault k] })
    ∧ (r.enable.motion = false → r.addMotions ks = r)
    ∧ (r.enable.motion = true → r.addMotions ks = { r with fresh := r.fresh ++ ks.map .motion })
    ∧ r.fold (.fault .quadError) = { r with fault := { r.fault with quadError := true } }
    ∧ r.fold (.fault .indexError) = { r with fault := { r.fault with indexError := true } }
    ∧ r.fold (.fault .indexMissing) = { r with fault := { r.fault with indexMissing := true } }
    ∧ r.fold (.fault .captureLost) = { r with fault := { r.fault with captureLost := true } }
    ∧ r.fold (.motion .stallEntered) = { r with motion := { r.motion with stallEntered := true } }
    ∧ r.fold (.motion .stallLeft) = { r with motion := { r.motion with stallLeft := true } }
    ∧ r.fold (.motion .overspeedEntered) = { r with motion := { r.motion with overspeedEntered := true } }
    ∧ r.fold (.motion .overspeedLeft) = { r with motion := { r.motion with overspeedLeft := true } }
    ∧ r.fold (.motion .reversal) = { r with motion := { r.motion with
        reversals := if r.motion.reversals = 255 then 255 else r.motion.reversals + 1 } }
    ∧ r.takenAll = r.fresh.foldl Rsc.fold { r with fresh := [] }
    ∧ (∀ (kind : ReportKind) (mask : Nat), ∃ early late : List RscEvent, ∃ r' : Rsc,
      r' = early.foldl Rsc.fold { r with fresh := late } ∧ r.beforeReport kind mask = r'
      ∧ (early ++ late).Perm r.fresh ∧ early.Sublist r.fresh ∧ late.Sublist r.fresh
      ∧ (∀ e ∈ late, kind.takes e = true)
      ∧ (late ≠ [] → (kind = .fault → r'.fault ≠ ⟨false, false, false, false⟩)
        ∧ (kind = .motion → r'.motion ≠ ⟨false, false, false, false, 0⟩)))
    ∧ (∀ kind : ReportKind, ((∃ f, kind.takes (.fault f) = true) ↔ kind = .fault)
      ∧ ((∃ m, kind.takes (.motion m) = true) ↔ kind = .motion) ∧ r.beforeReport kind 0 = r.takenAll
      ∧ ((kind = .fault → r.fault ≠ ⟨false, false, false, false⟩) →
        (kind = .motion → r.motion ≠ ⟨false, false, false, false, 0⟩) →
        ∃ mask, (r.beforeReport kind mask).fresh = r.fresh.filter kind.takes))
    ∧ r.complete c = { r with inFlight := r.inFlight - 1, waiting := r.waiting ++ [c], recent := r.recent + 1 }
    ∧ (∀ code : Nat, ∃ last : List Completion, last.Perm (r.waiting.drop (r.waiting.length - r.recent))
      ∧ r.ordered code = { r with waiting := r.waiting.take (r.waiting.length - r.recent) ++ last, recent := 0 })
    ∧ ∀ last : List Completion, last.Perm (r.waiting.drop (r.waiting.length - r.recent)) → ∃ code : Nat,
      r.ordered code = { r with waiting := r.waiting.take (r.waiting.length - r.recent) ++ last, recent := 0 }

/-- The report handed over is the sendable one of the highest priority; without one, or on a line that is busy or owed
to a reply, nothing is handed over (R141, R142, R180). Every event that has come counts for what is pending; of the
events of the report's own kind a free choice may leave some for after it (R151, log 29); a DONE report finds the order
of the completions settled (R153, log 31); and no moment of the sample before the hand-over can be read any more (log
4). -/
def Obligations.TheHighestSendableReportGoes : Prop :=
  ∀ s : State,
    (∀ k : ReportKind, s.kindSendable k = true ↔ s.kindPending k = true ∧ (k = .hello ∨ 1 ≤ s.rsc.credit))
    ∧ (s.kindPending .hello = true ↔ s.rsc.hello ≠ none) ∧ (s.kindPending .sync = true ↔ s.rsc.sync ≠ none)
    ∧ (s.kindPending .fault = true ↔ s.rsc.fault ≠ ⟨false, false, false, false⟩)
    ∧ (s.kindPending .done = true ↔ s.rsc.waiting ≠ [])
    ∧ (s.kindPending .motion = true ↔ s.rsc.motion ≠ ⟨false, false, false, false, 0⟩)
    ∧ (s.kindPending .capture = true ↔ s.rsc.enable.capture = true ∧ s.lcu.queue ≠ [])
    ∧ (s.kindPending .position = true ↔ s.rsc.position ≠ none)
    ∧ (s.nrstLow = false → s.lkp.tx = .free → s.lkp.replies = [] → ∀ v : State, v = { s with rsc := s.rsc.takenAll } →
      (∀ k : ReportKind, v.kindSendable k = true →
        (∀ j : ReportKind, j.code.toNat < k.code.toNat → v.kindSendable j = false) →
        ∃ (mask code : Nat) (u : State), u = { s with
          rsc := s.rsc.beforeReport k mask, free := s.free + 1, sample := { s.sample with views := [], reach := 0 } }
        ∧ u.kindSendable k = true
        ∧ exec .reportHandOver s = .next
          (State.handOverKind k { u with rsc := if k = .done then u.rsc.ordered code else u.rsc }))
      ∧ ((∀ k : ReportKind, v.kindSendable k = false) → exec .reportHandOver s = .next s))
    ∧ (s.lkp.tx ≠ .free ∨ s.lkp.replies ≠ [] → exec .reportHandOver s = .next s)

/-- A hand-over spends a credit except for HELLO, takes the content, empties its source, numbers the frame and advances
the counter, and its frame is sent; nothing else changes (R143, R144, R147 to R150, R154, R156, R157, R195, R196). -/
def Obligations.HandOverFormsTheReport : Prop :=
  ∀ s : State,
    (∀ cause, s.rsc.hello = some cause → s.handOverKind .hello =
      { s with
        rsc := { s.rsc with hello := none, seq := s.rsc.seq + 1 }
        lkp := { s.lkp with tx := .sending { resetOk := false, frame :=
          (mkFrame s.rsc.seq 0x70 ([cause.code, 0x01] ++ word16 s.lkp.resetCount ++ [0x08, 0x0C])) } } })
    ∧ (∀ a, s.rsc.sync = some a → s.handOverKind .sync =
      { s with
        rsc := { s.rsc with sync := none, seq := s.rsc.seq + 1, credit := s.rsc.credit - 1 }
        lkp := { s.lkp with tx := .sending { resetOk := false, frame :=
          (mkFrame s.rsc.seq 0x71 ([a.state.code, a.cause.code, a.changes, 0x00] ++ word32 a.time)) } } })
    ∧ s.handOverKind .fault =
      { s with
        rsc := { s.rsc with fault := ⟨false, false, false, false⟩, seq := s.rsc.seq + 1, credit := s.rsc.credit - 1 }
        lkp := { s.lkp with tx := .sending { resetOk := false, frame :=
          (mkFrame s.rsc.seq 0x72 ([flagByte [s.rsc.fault.quadError, s.rsc.fault.indexError, s.rsc.fault.indexMissing,
            s.rsc.fault.captureLost], 0x00] ++ word16 s.qdu.quadErrors ++ le32 ((s.lcu.latches.get 0).lost.toNat
              + (s.lcu.latches.get 1).lost.toNat + (s.lcu.latches.get 2).lost.toNat
              + (s.lcu.latches.get 3).lost.toNat))) } } }
    ∧ (∀ c rest, s.rsc.waiting = c :: rest → s.handOverKind .done =
      { s with
        rsc := { s.rsc with waiting := rest, seq := s.rsc.seq + 1, credit := s.rsc.credit - 1 }
        lkp := { s.lkp with tx := .sending { resetOk := false, frame :=
          (mkFrame s.rsc.seq 0x73 ([c.ticket, c.op.code, c.outcome.code, flagByte [c.pos.isSome, c.generation.isSome]]
            ++ word32 c.time ++ le16 (c.pos.elim 0 (·.angle)) ++ word16 (c.generation.getD 0)
            ++ word32 (c.pos.elim 0 (·.rev)))) } } })
    ∧ s.handOverKind .motion =
      { s with
        rsc := { s.rsc with motion := ⟨false, false, false, false, 0⟩, seq := s.rsc.seq + 1, credit := s.rsc.credit - 1 }
        lkp := { s.lkp with tx := .sending { resetOk := false, frame :=
          (mkFrame s.rsc.seq 0x74 ([flagByte [s.rsc.motion.stallEntered, s.rsc.motion.stallLeft,
            s.rsc.motion.overspeedEntered, s.rsc.motion.overspeedLeft], s.rsc.motion.reversals,
            flagByte [s.tsu.stalled, s.tsu.overspeed], 0x00] ++ s32 s.tsu.presented)) } } }
    ∧ s.handOverKind .capture =
      { s with
        rsc := { s.rsc with seq := s.rsc.seq + 1, credit := s.rsc.credit - 1 }
        lcu := { s.lcu with queue := s.lcu.queue.drop 4 }
        lkp := { s.lkp with tx := .sending { resetOk := false, frame :=
          (mkFrame s.rsc.seq 0x75 (le8 (s.lcu.queue.take 4).length ++ le8 (s.lcu.queue.drop 4).length
            ++ ((s.lcu.queue.take 4).map fun c =>
              [BitVec.ofNat 8 c.latch.val, c.edge.code, flagByte [c.referenced, c.gap], c.lostBefore]
                ++ le16 c.pos.angle ++ word16 c.generation ++ word32 c.pos.rev ++ word32 c.time).flatten)) } } }
    ∧ ∀ n, s.rsc.position = some n → s.handOverKind .position =
      { s with
        rsc := { s.rsc with position := none, seq := s.rsc.seq + 1, credit := s.rsc.credit - 1 }
        lkp := { s.lkp with tx := .sending { resetOk := false, frame :=
          (mkFrame s.rsc.seq 0x76 ([n.state.code, 0x00] ++ le16 n.pos.angle ++ word16 n.generation ++ word32 n.pos.rev
            ++ s32 n.speed ++ word32 n.time)) } } }

/-! ## The link -/

/-- The good bytes that advance a frame: the sync byte, LEN, the body, the high byte of the CRC. Only the receiver
changes; while it takes no start bits, no byte and no line error changes anything (R162, R163, R164, R165, R166). The
receiver's errors: noise in HUNT, a LEN above 240, a line error and a gap expiry inside a frame each raise their own
counter (at most to 65535), discard the frame and leave the receiver in HUNT; a break makes it wait for an idle line.
Nothing else changes (R163, R164, R165, R167, R168, R169). -/
def Obligations.GoodBytesAdvanceAndErrorsDiscardTheFrame : Prop :=
  (∀ (s : State) (b : Byte), s.nrstLow = false →
     (s.lkp.rxLine = .ready → s.lkp.rx = .hunt → b = 0xB7 →
       exec (.goodByte b) s = .next { s with lkp := { s.lkp with rx := .length, gapTimer := true } })
     ∧ (s.lkp.rxLine = .ready → s.lkp.rx = .length → b.toNat ≤ 240 →
       exec (.goodByte b) s = .next { s with lkp := { s.lkp with rx := .body b [], gapTimer := true } })
     ∧ (∀ len buf, s.lkp.rxLine = .ready → s.lkp.rx = .body len buf → buf.length + 1 ≠ len.toNat + 2 →
       exec (.goodByte b) s = .next { s with lkp := { s.lkp with rx := .body len (buf ++ [b]), gapTimer := true } })
     ∧ (∀ len buf, s.lkp.rxLine = .ready → s.lkp.rx = .body len buf → buf.length + 1 = len.toNat + 2 →
       exec (.goodByte b) s = .next
         { s with lkp := { s.lkp with rx := .check len (buf ++ [b]) none, gapTimer := true } })
     ∧ (∀ len buf, s.lkp.rxLine = .ready → s.lkp.rx = .check len buf none →
       exec (.goodByte b) s = .next
         { s with lkp := { s.lkp with rx := .check len buf (some b), gapTimer := true } })
     ∧ (s.lkp.rxLine ≠ .ready → exec (.goodByte b) s = .next s ∧ exec (.lengthError b) s = .next s
       ∧ exec (.frame b) s = .next s ∧ (∀ e : ByteEvent, exec (.noise e) s = .next s)
       ∧ ∀ e : LineError, exec (.byteError e) s = .next s)
     ∧ exec .rxdIdle s = .next { s with lkp := { s.lkp with rxLine := .ready } })
  ∧ ((∀ (s : State) (e : ByteEvent), s.nrstLow = false → s.lkp.rxLine = .ready → s.lkp.rx = .hunt → e ≠ .good 0xB7 →
     exec (.noise e) s = .next { s with lkp := { s.lkp with
       rxLine := if e = .lineBreak then .waitBitTime else .ready
       counters := { s.lkp.counters with
         noise := if s.lkp.counters.noise = 0xFFFF then 0xFFFF else s.lkp.counters.noise + 1 } } })
   ∧ (∀ (s : State) (b : Byte), s.nrstLow = false → s.lkp.rxLine = .ready → s.lkp.rx = .length → 240 < b.toNat →
     exec (.lengthError b) s = .next { s with lkp := { s.lkp with
       rx := .hunt, gapTimer := false
       counters := { s.lkp.counters with
         lengthErrors := if s.lkp.counters.lengthErrors = 0xFFFF then 0xFFFF else s.lkp.counters.lengthErrors + 1 } } })
   ∧ (∀ (s : State) (e : LineError), s.nrstLow = false → s.lkp.rxLine = .ready → s.lkp.rx ≠ .hunt →
     exec (.byteError e) s = .next { s with lkp := { s.lkp with
       rx := .hunt, gapTimer := false, rxLine := if e = .lineBreak then .waitBitTime else .ready
       counters := { s.lkp.counters with
         byteErrors := if s.lkp.counters.byteErrors = 0xFFFF then 0xFFFF else s.lkp.counters.byteErrors + 1 } } })
   ∧ (∀ s : State, s.nrstLow = false → s.lkp.rx ≠ .hunt →
     exec .gapExpiry s = .next { s with lkp := { s.lkp with
       rx := .hunt, gapTimer := false
       counters := { s.lkp.counters with
         gapErrors := if s.lkp.counters.gapErrors = 0xFFFF then 0xFFFF else s.lkp.counters.gapErrors + 1 } } })
   ∧ ∀ s : State, s.nrstLow = false → s.lkp.rx = .hunt → exec .gapExpiry s = .next s)

/-- The second CRC byte completes a frame: a mismatch is counted and the frame dropped; a repeat of an executed request
is answered from the cache, a repeat of a queued one is dropped, a new one is queued, answered BUSY, or dropped when
both queues are full. Nothing but the link changes (R166, R170 to R173). -/
def Obligations.CompletedFramesAreAdmitted : Prop :=
  ∀ (s : State) (len hi lo : Byte) (buf : List Byte) (r : Request), s.nrstLow = false → s.lkp.rxLine = .ready →
    s.lkp.rx = .check len buf (some hi) →
    r = { seq := buf.getD 0 0, kind := buf.getD 1 0, payload := buf.drop 2, crc := hi ++ lo } →
    ∃ k : Lkp, exec (.frame lo) s = .next { s with lkp := k } ∧ k.rx = .hunt ∧ k.gapTimer = false
    ∧ k.cache = s.lkp.cache ∧ k.straps = s.lkp.straps ∧ k.rxLine = .ready ∧ k.resetPending = s.lkp.resetPending
    ∧ k.resetCount = s.lkp.resetCount ∧ k.resetCause = s.lkp.resetCause
    ∧ (hi ++ lo ≠ crc (len :: buf) → k = { s.lkp with
        rx := .hunt, gapTimer := false
        counters := { s.lkp.counters with
          crcErrors := if s.lkp.counters.crcErrors = 0xFFFF then 0xFFFF else s.lkp.counters.crcErrors + 1 } })
    ∧ (hi ++ lo = crc (len :: buf) →
      (∀ e, s.lkp.cache.find? (fun e => decide (e.seq = r.seq ∧ e.crc = r.crc)) = some e →
        k.inbound = s.lkp.inbound
        ∧ (s.lkp.replies.length < 6 → framePlaced s.lkp k { frame := e.frame, resetOk := false }
          ∧ k.counters = { s.lkp.counters with dupAnswered :=
            if s.lkp.counters.dupAnswered = 0xFFFF then 0xFFFF else s.lkp.counters.dupAnswered + 1 })
        ∧ (6 ≤ s.lkp.replies.length → k.replies = s.lkp.replies ∧ k.tx = s.lkp.tx
          ∧ k.counters = { s.lkp.counters with busyDrops :=
            if s.lkp.counters.busyDrops = 0xFFFF then 0xFFFF else s.lkp.counters.busyDrops + 1 }))
      ∧ ((∀ e ∈ s.lkp.cache, ¬(e.seq = r.seq ∧ e.crc = r.crc)) →
        ((∃ q ∈ s.lkp.inbound, q.seq = r.seq ∧ q.crc = r.crc) →
          k.inbound = s.lkp.inbound ∧ k.replies = s.lkp.replies ∧ k.tx = s.lkp.tx
          ∧ k.counters = { s.lkp.counters with dupDropped :=
            if s.lkp.counters.dupDropped = 0xFFFF then 0xFFFF else s.lkp.counters.dupDropped + 1 })
        ∧ ((∀ q ∈ s.lkp.inbound, ¬(q.seq = r.seq ∧ q.crc = r.crc)) →
          (s.lkp.inbound.length < 4 → k.inbound = s.lkp.inbound ++ [r] ∧ k.replies = s.lkp.replies
            ∧ k.tx = s.lkp.tx ∧ k.counters = s.lkp.counters)
          ∧ (4 ≤ s.lkp.inbound.length → k.inbound = s.lkp.inbound
            ∧ (s.lkp.replies.length < 6 → framePlaced s.lkp k
                { resetOk := false, frame :=
                  (if (requestLength? r.kind).isSome = true then mkFrame r.seq (r.kind + 0x80) [0x10]
                    else mkFrame r.seq 0xFF [0x10, r.kind]) }
              ∧ k.counters = { s.lkp.counters with busyReplies :=
                if s.lkp.counters.busyReplies = 0xFFFF then 0xFFFF else s.lkp.counters.busyReplies + 1 })
            ∧ (6 ≤ s.lkp.replies.length → k.replies = s.lkp.replies ∧ k.tx = s.lkp.tx
              ∧ k.counters = { s.lkp.counters with busyDrops :=
                if s.lkp.counters.busyDrops = 0xFFFF then 0xFFFF else s.lkp.counters.busyDrops + 1 })))))

/-- The end of a transmission: after RESET's OK the line is not offered before the reset, which is a row of its own (the
model's choice, log 10); otherwise the oldest reply begins, a waiting reply always before a report; without one the
highest sendable report is handed over; without that TXD stays idle (R179, R180, R182). The hand-over
is that of REPORT_HAND_OVER (R151, R153; log 4, log 29, log 31 for what is the model's choice in it). -/
def Obligations.TransmitEndStartsTheNextFrame : Prop :=
  ∀ (s : State) (f : Reply), s.nrstLow = false → s.lkp.tx = .sending f →
    (f.resetOk = true → exec .transmitEnd s = .next { s with lkp := { s.lkp with tx := .resetDue } })
    ∧ (∀ g rest, f.resetOk = false → s.lkp.replies = g :: rest →
      exec .transmitEnd s = .next { s with lkp := { s.lkp with tx := .sending g, replies := rest } })
    ∧ (f.resetOk = false → s.lkp.replies = [] →
      ∀ v : State, v = { s with rsc := s.rsc.takenAll, lkp := { s.lkp with tx := .free } } →
      (∀ k : ReportKind, v.kindSendable k = true →
        (∀ j : ReportKind, j.code.toNat < k.code.toNat → v.kindSendable j = false) →
        ∃ (mask code : Nat) (u : State), u = { s with
          rsc := s.rsc.beforeReport k mask, lkp := { s.lkp with tx := .free }, free := s.free + 1
          sample := { s.sample with views := [], reach := 0 } }
        ∧ u.kindSendable k = true
        ∧ exec .transmitEnd s = .next
          (State.handOverKind k { u with rsc := if k = .done then u.rsc.ordered code else u.rsc }))
      ∧ ((∀ k : ReportKind, v.kindSendable k = false) →
        exec .transmitEnd s = .next { s with lkp := { s.lkp with tx := .free } }))

/-- The frame and its CRC: the register, its shifts, the check value over "123456789", the form of a frame, and the
IDENTIFY request of section 10.1 (R191). The fields: least significant byte first, two's complement, flag bytes from bit
0 up; and the codes of section 10.3, for every byte of a field that is read and every value that is sent (R192), but for
`bank`, the policy NOW of a COMMIT and `baud`: those stand in the statements about TRACK_LIST, COMMIT and LINK_STATUS. -/
def Obligations.FramesCarryTheirCrcAndCodes : Prop :=
  (crc [] = 0xFFFF
    ∧ (∀ (bs : List Byte) (b : Byte), crc (bs ++ [b]) = crcShifts 8 (crc bs ^^^ (b.setWidth 16 <<< 8)))
    ∧ (∀ r : Word16, (r.getLsbD 15 = true → crcShift r = (r <<< 1) ^^^ 0x1021)
      ∧ (r.getLsbD 15 = false → crcShift r = r <<< 1))
    ∧ crc [0x31, 0x32, 0x33, 0x34, 0x35, 0x36, 0x37, 0x38, 0x39] = 0x29B1
    ∧ mkFrame 0x01 0x01 [] = [0xB7, 0x00, 0x01, 0x01, 0xEF, 0x8C]
    ∧ ∀ (seq kind : Byte) (p : List Byte), (mkFrame seq kind p).length = p.length + 6
      ∧ ∃ hi lo : Byte, mkFrame seq kind p = 0xB7 :: (BitVec.ofNat 8 p.length :: seq :: kind :: p) ++ [hi, lo]
        ∧ hi ++ lo = crc (BitVec.ofNat 8 p.length :: seq :: kind :: p))
  ∧ ((∀ (p : List Byte) (i : Nat), u8At p i = (p.getD i 0).toNat
       ∧ u16At p i = (p.getD i 0).toNat + 256 * (p.getD (i + 1) 0).toNat
       ∧ u32At p i = (p.getD i 0).toNat + 256 * (p.getD (i + 1) 0).toNat + 65536 * (p.getD (i + 2) 0).toNat
         + 16777216 * (p.getD (i + 3) 0).toNat
       ∧ (s32At p i).toNat = u32At p i)
     ∧ (∀ n : Nat, (n < 256 → u8At (le8 n) 0 = n) ∧ (n < 65536 → u16At (le16 n) 0 = n)
       ∧ (n < 4294967296 → u32At (le32 n) 0 = n) ∧ ((le8 n).length, (le16 n).length, (le32 n).length) = (1, 2, 4))
     ∧ (∀ x : Int, s32 x = le32 (x % 4294967296).toNat ∧ s16 x = le16 (x % 65536).toNat)
     ∧ (∀ (w : Word32) (v : Word16), word32 w = le32 w.toNat ∧ word16 v = le16 v.toNat)
     ∧ (bit false = 0x00 ∧ bit true = 0x01)
     ∧ ∀ (bs : List Bool) (i : Nat), bs.length ≤ 8 → i < 8 → (flagByte bs).getLsbD i = bs.getD i false)
  ∧ ((∀ b : Byte,
       yesNo? b = ([(0x00, false), (0x01, true)] : List (Nat × Bool)).lookup b.toNat
       ∧ countMode? b = ([(0x01, .x1), (0x02, .x2), (0x04, .x4)] : List (Nat × CountMode)).lookup b.toNat
       ∧ winDir? b = ([(0x00, .fwd), (0x01, .rev), (0x02, .both)] : List (Nat × WinDir)).lookup b.toNat
       ∧ source? b = ([(0x00, .index), (0x01, .latch 0), (0x02, .latch 1), (0x03, .latch 2), (0x04, .latch 3)]
         : List (Nat × Source)).lookup b.toNat
       ∧ edgeSel? b = ([(0x00, .off), (0x01, .rise), (0x02, .fall), (0x03, .both)] : List (Nat × EdgeSel)).lookup b.toNat
       ∧ latchMode? b = ([(0x00, .continuous), (0x01, .single)] : List (Nat × LatchMode)).lookup b.toNat
       ∧ indexPolicy? b = ([(0x00, .observe), (0x01, .correct)] : List (Nat × IndexPolicy)).lookup b.toNat
       ∧ trackMode? b = ([(0x00, .normal), (0x01, .forceOn), (0x02, .forceOff)] : List (Nat × TrackMode)).lookup b.toNat
       ∧ safe? b = ([(0x00, .off), (0x01, .on), (0x02, .hold)] : List (Nat × SafeLevel)).lookup b.toNat
       ∧ polarity? b = ([(0x00, .activeHigh), (0x01, .activeLow)] : List (Nat × Polarity)).lookup b.toNat)
     ∧ [Dir.fwd, .rev].map Dir.code = [0x00, 0x01]
     ∧ [WinDir.fwd, .rev, .both].map WinDir.code = [0x00, 0x01, 0x02]
     ∧ [CountMode.x1, .x2, .x4].map CountMode.code = [0x01, 0x02, 0x04]
     ∧ [SyncState.free, .seeking, .locked, .lost].map SyncState.code = [0x00, 0x01, 0x02, 0x03]
     ∧ [SyncCause.reset, .seek, .reference, .travel, .quadError, .abort, .release, .indexErrors].map SyncCause.code
       = [0x00, 0x01, 0x02, 0x03, 0x04, 0x05, 0x06, 0x07]
     ∧ [Source.index, .latch 0, .latch 1, .latch 2, .latch 3].map Source.code = [0x00, 0x01, 0x02, 0x03, 0x04]
     ∧ [EdgeKind.rise, .fall].map EdgeKind.code = [0x01, 0x02]
     ∧ [ArmState.off, .armed, .spent].map ArmState.code = [0x00, 0x01, 0x02]
     ∧ [IndexPolicy.observe, .correct].map IndexPolicy.code = [0x00, 0x01]
     ∧ (∀ p : Nat, [CommitPolicy.atPosition p, .atIndex].map CommitPolicy.code = [0x01, 0x02])
     ∧ [TrackMode.normal, .forceOn, .forceOff].map TrackMode.code = [0x00, 0x01, 0x02]
     ∧ [SafeLevel.off, .on, .hold].map SafeLevel.code = [0x00, 0x01, 0x02]
     ∧ [Polarity.activeHigh, .activeLow].map Polarity.code = [0x00, 0x01]
     ∧ [TrackCause.disabled, .forced, .inhibitedSync, .inhibitedOverspeed, .inhibitedStall, .evaluated].map
       TrackCause.code = [0x00, 0x01, 0x02, 0x03, 0x04, 0x05]
     ∧ [LongOp.seek, .commit].map LongOp.code = [0x00, 0x01]
     ∧ [EndOutcome.locked, .failedQuad, .failedTravel, .aborted, .swapped, .cancelled, .abandoned].map EndOutcome.code
       = [0x00, 0x01, 0x02, 0x03, 0x10, 0x11, 0x12]
     ∧ [ResetCause.powerOn, .pin, .request].map ResetCause.code = [0x00, 0x01, 0x02]
     ∧ [ReportKind.hello, .sync, .fault, .done, .motion, .capture, .position].map ReportKind.code
       = [0x70, 0x71, 0x72, 0x73, 0x74, 0x75, 0x76])

/-! ## Requests -/

/-- Each request kind has its one payload length; every other KIND is no request code (R193, section 9.4). A request
whose KIND is no request code is refused with BAD_KIND under kind 0xFF with the offending KIND, and a request of the
wrong length with BAD_LENGTH; both leave the inbound queue, are cached, and change nothing else (R174 to R177). That
each of the three COMMIT rows executes a COMMIT of the wrong length is the model's choice (log 8).  -/
def Obligations.UnknownKindsAndWrongLengthsAreRefused : Prop :=
  (∀ kind : Byte, requestLength? kind =
     ([(0x01, 0), (0x02, 0), (0x03, 1), (0x04, 0), (0x08, 0), (0x09, 8), (0x0A, 8), (0x0B, 4), (0x0C, 8), (0x0D, 0),
       (0x0E, 0), (0x0F, 0), (0x10, 8), (0x11, 0), (0x18, 6), (0x19, 4), (0x1A, 1), (0x1B, 2), (0x1C, 6), (0x1D, 0),
       (0x1E, 0)] ++
      [(0x20, 4), (0x21, 0), (0x28, 1), (0x29, 6), (0x2A, 1), (0x30, 6), (0x31, 1), (0x32, 1), (0x33, 0), (0x38, 4),
       (0x39, 1), (0x3A, 0)] : List (Nat × Nat)).lookup kind.toNat)
  ∧ ((∀ (s : State) (r : Request) (rest : List Request), s.nrstLow = false → s.lkp.inbound = r :: rest →
     s.lkp.replies.length ≤ 4 → s.lkp.resetPending = false → (s.sample.moved = true → s.speedDue = false) →
     requestLength? r.kind = none →
     ∃ t, exec .badKind s = .next t ∧ answeredWith s t r rest (mkFrame r.seq 0xFF [0x11, r.kind]) false
       ∧ linkKept s t ∧ t.lkp.counters = s.lkp.counters ∧ t.lkp.resetPending = false ∧ evaluatedAs s t)
     ∧ ∀ (s : State) (c : Instr) (r : Request) (rest : List Request), requestKind c = some r.kind → s.nrstLow = false →
       s.lkp.inbound = r :: rest → s.lkp.replies.length ≤ 4 → s.lkp.resetPending = false →
       (s.sample.moved = true → s.speedDue = false) → requestLength? r.kind ≠ some r.payload.length → ∃ t, exec c s = .next t ∧ refused s t r rest 0x12)

/-- IDENTIFY, STATUS, AXIS_GET and REPORT_STATUS are answered OK with the values held at the execution, and reading
changes nothing (R20, R160, R185, R186, R194). SYNC_STATUS and SPEED_GET are answered OK with the values held at the
execution, and reading changes nothing; the fields of an absent record are zero; the direction byte of SPEED_GET is
`last_dir` where that is present, and any byte where it is absent, and DECAYING is the test of R47 at the execution
(R40, R47, R57, R194, log 13, log 22). The requests that read the position or the speed find the step, the stall expiry
and the decay of the sample taken (R12, R48, log 30); REPORT_STATUS finds the events of the RSC folded (log 29). -/
def Obligations.ReadsOfDeviceAxisReferenceAndSpeed : Prop :=
  (∀ (s : State) (r : Request) (rest : List Request),
     (s.offers 0x01 r rest → ∃ t, exec .identify s = .next t ∧ carriedOut s s t r rest 0x00
       ([0x41, 0x2E, 0x08, 0x0C, 0x01, 0x08, 0x04, 0x10, 0x40, 0x20] ++ word16 s.lkp.resetCount
         ++ [s.lkp.resetCause.code]))
     ∧ (s.offers 0x02 r rest → ∀ v, v = s.catchUp →
       ∃ t, exec .status s = .next t ∧ carriedOut v v t r rest 0x00
       ([v.rft.sync.state.code, flagByte [v.tsu.stalled, v.tsu.overspeed, v.tev.enable, v.bsc.commit.isSome,
           decide (v.rft.sync.state = .seeking)]]
         ++ le16 v.pcu.pos.angle ++ word16 v.cts.generation ++ le8 v.lcu.queue.length ++ le8 v.rsc.credit
         ++ word32 v.pcu.pos.rev ++ s32 v.tsu.presented))
     ∧ (s.offers 0x08 r rest → ∀ v, v = s.catchUp →
       ∃ t, exec .axisGet s = .next t ∧ carriedOut v v t r rest 0x00
       (le32 v.pcu.axis.cpr ++ [v.pcu.axis.countMode.code, bit v.pcu.axis.invert] ++ le8 v.pcu.axis.filterLen
         ++ [bit v.pcu.axis.indexEnable] ++ le16 v.pcu.pos.angle
         ++ [v.pcu.dir.code, flagByte [v.qdu.a.level, v.qdu.b.level, v.qdu.z.level]] ++ word32 v.pcu.pos.rev
         ++ word16 v.qdu.quadErrors))
     ∧ (s.offers 0x3A r rest → ∀ v, v = { s with rsc := s.rsc.takenAll } →
       ∃ t, exec .reportStatus s = .next t ∧ carriedOut v v t r rest 0x00
       (le8 v.rsc.credit
         ++ [flagByte [v.kindPending .hello, v.kindPending .sync, v.kindPending .fault, v.kindPending .done,
           v.kindPending .motion, v.kindPending .capture, v.kindPending .position]]
         ++ le8 v.rsc.inFlight ++ le8 v.rsc.waiting.length ++ [v.rsc.seq,
           flagByte [false, v.rsc.enable.sync, v.rsc.enable.fault, false, v.rsc.enable.motion, v.rsc.enable.capture,
             v.rsc.enable.position]]
         ++ le16 v.rsc.intervalMs)))
  ∧ (∀ (s : State) (r : Request) (rest : List Request),
     (s.offers 0x0F r rest → ∀ v, v = s.catchUp →
       ∃ t, exec .syncStatus s = .next t ∧ carriedOut v v t r rest 0x00
       ([v.rft.sync.state.code, v.rft.cause.code]
         ++ [bit v.rft.configured.check] ++ le8 v.rft.configured.tolerance ++ le8 v.rft.configured.limit
         ++ [v.rft.configured.policy.code]
         ++ [bit v.rft.inForce.check] ++ le8 v.rft.inForce.tolerance ++ le8 v.rft.inForce.limit
         ++ [v.rft.inForce.policy.code]
         ++ (match v.rft.sync with
           | .seeking k => [k.ticket, k.source.code, k.edgeCode, 0x00] ++ le16 k.refValue ++ le32 k.travelLimit
             ++ s32 (max (-2147483648) (min 2147483647 (travel v.pcu.axis.cpr k.start v.pcu.pos)))
           | .free => List.replicate 14 0x00
           | .locked _ => List.replicate 14 0x00
           | .lost _ => List.replicate 14 0x00)
         ++ (match v.rft.sync with
           | .locked k => k.bytes
           | .lost k => k.bytes
           | .free => List.replicate 20 0x00
           | .seeking _ => List.replicate 20 0x00)
         ++ le16 v.pcu.pos.angle ++ word32 v.pcu.pos.rev))
     ∧ (∀ k : RefRecord, k.bytes = [k.source.code, flagByte [k.index.isSome, k.lastD.isSome]] ++ le8 k.consec ++ [0x00]
       ++ le16 k.refValue ++ le16 (k.index.elim 0 (·.pos)) ++ s16 (k.lastD.getD 0) ++ word32 k.lockedAt
       ++ word32 (k.index.elim 0 (·.last.rev)) ++ le16 (k.index.elim 0 (·.last.angle)))
     ∧ (s.offers 0x11 r rest → ∀ v, v = s.catchUp →
       ∃ (t : State) (k span : Nat) (dir : Byte) (decaying : Bool), exec .speedGet s = .next t
       ∧ k = min (v.tsu.depth + 1) v.tsu.history.length ∧ span = spanOf (v.tsu.history.take k)
       ∧ (∀ d, v.tsu.lastDir = some d → dir = d.code)
       ∧ (decaying = true ↔ 2 ≤ k ∧ ∃ newest older, v.tsu.history = newest :: older
         ∧ span < (v.tsu.timebase - newest.time).toNat * (k - 1))
       ∧ carriedOut v v t r rest 0x00
         (s32 v.tsu.presented ++ [flagByte [v.tsu.stalled, v.tsu.overspeed, v.tsu.lastDir.isSome, decaying], dir]
           ++ le8 v.tsu.history.length ++ le8 k ++ le32 (min span 4294967295)
           ++ word32 (v.tsu.history.head?.elim 0 (·.time)) ++ word32 v.tsu.timebase ++ le8 v.tsu.depth ++ [0x00]
           ++ le16 v.tsu.stallMs ++ le32 v.tsu.overspeedLimit)))

/-- TRACK_LIST, BANK_INFO and TRACK_STATUS: their refusals in order, and their replies with the values held at the
execution; reading changes nothing (R78, R79, R101, R194, R196). TRACK_STATUS finds the step, the stall expiry and the
decay of the sample taken (R12, log 30). -/
def Obligations.ReadsOfBanksAndTracks : Prop :=
  ∀ (s : State) (r : Request) (rest : List Request),
    (s.offers 0x1B r rest → ∃ t, exec .trackList s = .next t
      ∧ (7 < u8At r.payload 1 → refused s t r rest 0x14)
      ∧ (u8At r.payload 1 ≤ 7 → 1 < u8At r.payload 0 → refused s t r rest 0x13)
      ∧ ∀ (i : Fin 8) (tab : TrackTable), u8At r.payload 1 = i.val → u8At r.payload 0 ≤ 1 →
        tab = (if u8At r.payload 0 = 1 then s.cts.shadow else s.cts.active).tracks.get i →
        carriedOut s s t r rest 0x00
          ([byteAt r.payload 0, byteAt r.payload 1, bit s.cts.dirty] ++ le8 tab.windows.length
            ++ word16 s.cts.generation ++ le16 tab.leadUs ++ le16 tab.hysteresis
            ++ (tab.windows.map fun w => le16 w.on ++ le16 w.off ++ [w.dir.code, 0x00]).flatten))
    ∧ (s.offers 0x1E r rest → ∃ t, exec .bankInfo s = .next t ∧ carriedOut s s t r rest 0x00
      (word16 s.cts.generation ++ [bit s.cts.dirty, bit s.bsc.commit.isSome]
        ++ (s.cts.active.tracks.toList.map fun tab => BitVec.ofNat 8 tab.windows.length) ++ le8 s.cts.active.pool
        ++ (s.cts.shadow.tracks.toList.map fun tab => BitVec.ofNat 8 tab.windows.length) ++ le8 s.cts.shadow.pool
        ++ (match s.bsc.commit with
          | some { ticket := k, policy := .atPosition p } => [k, 0x01] ++ le16 p
          | some { ticket := k, policy := .atIndex } => [k, 0x02, 0x00, 0x00]
          | none => [0x00, 0x00, 0x00, 0x00])))
    ∧ (s.offers 0x2A r rest → ∀ v, v = s.catchUp → ∃ t, exec .trackStatus s = .next t
      ∧ (7 < u8At r.payload 0 → refused v t r rest 0x14)
      ∧ ∀ (i : Fin 8) (tr : Track) (tab : TrackTable), u8At r.payload 0 = i.val →
        tr = v.evaluate.tev.tracks.get i → tab = v.cts.active.tracks.get i →
        carriedOut v v t r rest 0x00
          ([bit tr.level, bit tr.pin, (trackCause v.evalInputs tr).code, bit tr.evaluated,
              bit (rawLevel v.evalInputs tab), (currentWindow v.evalInputs tab).elim 0xFF (BitVec.ofNat 8), tr.mode.code,
              tr.safe.code, tr.polarity.code, bit tr.stallInhibit, bit tr.held,
              flagByte [leadClipped v.evalInputs tab, tr.memory.isSome, tr.inhibited, tr.lastSwitch.isSome, false,
                decide ((tr.memory.map (·.dir)) = some .rev)]]
            ++ le16 (effectivePosition v.evalInputs tab) ++ le16 (leadCounts v.evalInputs tab)
            ++ le16 (tr.memory.elim 0 (·.position)) ++ word16 v.cts.generation ++ word32 tr.switches
            ++ word32 (tr.lastSwitch.getD 0)))

/-- LINK_STATUS is answered with the nine counters, the counts of the three queues and the straps; `clear` yes sets the
counters to 0 after that, and nothing else changes (R187). -/
def Obligations.LinkStatusReadsAndClearsTheCounters : Prop :=
  ∀ (s : State) (r : Request) (rest : List Request), s.offers 0x03 r rest → ∃ t, exec .linkStatus s = .next t
    ∧ (1 < u8At r.payload 0 → refused s t r rest 0x13)
    ∧ (u8At r.payload 0 ≤ 1 →
      answered s t r rest 0x00
        (word16 s.lkp.counters.noise ++ word16 s.lkp.counters.lengthErrors ++ word16 s.lkp.counters.crcErrors
          ++ word16 s.lkp.counters.byteErrors ++ word16 s.lkp.counters.gapErrors ++ word16 s.lkp.counters.dupAnswered
          ++ word16 s.lkp.counters.dupDropped ++ word16 s.lkp.counters.busyReplies
          ++ word16 s.lkp.counters.busyDrops ++ le8 rest.length ++ le8 s.lkp.replies.length
          ++ le8 s.lkp.cache.length ++ le8 s.lkp.straps.toNat)
      ∧ t.lkp.counters = (if u8At r.payload 0 = 1 then ⟨0, 0, 0, 0, 0, 0, 0, 0, 0⟩ else s.lkp.counters)
      ∧ linkKept s t ∧ t.lkp.resetPending = false ∧ evaluatedAs s t)

/-- AXIS_SET: RANGE, BAD_VALUE, STATE and CONFLICT in that order; else the five values are replaced and the position is
zeroed by a jump, and nothing else changes (R13, R18, R19); a step of the sample that is still to be taken goes first
(R9, log 15, log 30). POSITION_SET: RANGE, BAD_VALUE and STATE in that order; else
the angle and the revolution count take the two values by a jump, and nothing else changes (R13, R14). -/
def Obligations.AxisSetAndPositionSetReplaceThePosition : Prop :=
  (∀ (s : State) (r : Request) (rest : List Request), s.offers 0x09 r rest → ∀ v, v = s.catchUp →
     ∃ t, exec .axisSet s = .next t
     ∧ (u32At r.payload 0 < 8 ∨ 65536 < u32At r.payload 0 ∨ 15 < u8At r.payload 6 → refused v t r rest 0x14)
     ∧ (8 ≤ u32At r.payload 0 → u32At r.payload 0 ≤ 65536 → u8At r.payload 6 ≤ 15 →
       (countMode? (byteAt r.payload 4) = none ∨ 1 < u8At r.payload 5 ∨ 1 < u8At r.payload 7 → refused v t r rest 0x13)
       ∧ ∀ mode, countMode? (byteAt r.payload 4) = some mode → u8At r.payload 5 ≤ 1 → u8At r.payload 7 ≤ 1 →
         (v.rft.sync.state ≠ .free → refused v t r rest 0x15)
         ∧ (v.rft.sync.state = .free →
           ((∃ i : Fin 8, ∃ w, (w ∈ (v.cts.active.tracks.get i).windows ∨ w ∈ (v.cts.shadow.tracks.get i).windows)
               ∧ (u32At r.payload 0 ≤ w.on ∨ u32At r.payload 0 ≤ w.off)) → refused v t r rest 0x1D)
           ∧ ((∀ i : Fin 8, ∀ w, (w ∈ (v.cts.active.tracks.get i).windows ∨ w ∈ (v.cts.shadow.tracks.get i).windows) →
               w.on < u32At r.payload 0 ∧ w.off < u32At r.payload 0) →
             carriedOut v
               { v with
                 pcu := { v.pcu with
                   pos := { rev := 0, angle := 0 }
                   axis := { cpr := u32At r.payload 0, countMode := mode, invert := decide (u8At r.payload 5 = 1)
                             filterLen := u8At r.payload 6, indexEnable := decide (u8At r.payload 7 = 1) } }
                 tev := v.tev.clearMemories } t r rest 0x00 []))))
  ∧ (∀ (s : State) (r : Request) (rest : List Request), s.offers 0x0A r rest → ∃ t, exec .positionSet s = .next t
     ∧ (if s.pcu.axis.cpr ≤ u16At r.payload 0 then refused s t r rest 0x14
       else if byteAt r.payload 2 ≠ 0 ∨ byteAt r.payload 3 ≠ 0 then refused s t r rest 0x13
       else if s.rft.sync.state ≠ .free then refused s t r rest 0x15
       else carriedOut s
         { s with
           pcu := { s.pcu with pos := { rev := s32At r.payload 4, angle := u16At r.payload 0 } }
           tev := s.tev.clearMemories } t r rest 0x00 []))

/-- INDEX_CHECK_SET: RANGE, then BAD_VALUE; else the four values replace the configured set, and the in-force set and
everything else stays (R39). -/
def Obligations.IndexCheckSetReplacesTheConfiguredSet : Prop :=
  ∀ (s : State) (r : Request) (rest : List Request), s.offers 0x0B r rest → ∃ t, exec .indexCheckSet s = .next t
    ∧ (if u8At r.payload 2 < 1 ∨ 7 < u8At r.payload 2 then refused s t r rest 0x14
      else if 1 < u8At r.payload 0 ∨ 1 < u8At r.payload 3 then refused s t r rest 0x13
      else carriedOut s
        { s with rft := { s.rft with configured :=
          { check := decide (u8At r.payload 0 = 1), tolerance := u8At r.payload 1, limit := u8At r.payload 2
            policy := if u8At r.payload 3 = 1 then .correct else .observe } } } t r rest 0x00 [])

/-- SEEK: the checks of R25 in their order; an accepted SEEK takes the next ticket, counts one operation in flight,
makes the seek record and the state SEEKING, and abandons a pending commit, whose completion may stand behind another of
its sample (R22, R23, R25, R105, R114, R152; `recent`, log 31). -/
def Obligations.SeekStartsASeek : Prop :=
  ∀ (s : State) (r : Request) (rest : List Request), s.offers 0x0C r rest → ∃ t, exec .seek s = .next t
    ∧ (if s.pcu.axis.cpr ≤ u16At r.payload 2 ∨ 16777215 < u32At r.payload 4 then refused s t r rest 0x14
      else if 4 < u8At r.payload 0 ∨ (1 ≤ u8At r.payload 0 ∧ (u8At r.payload 1 < 1 ∨ 3 < u8At r.payload 1)) then
        refused s t r rest 0x13
      else if u8At r.payload 0 = 0 ∧ s.pcu.axis.indexEnable = false then refused s t r rest 0x15
      else if s.rft.sync.state = .seeking then refused s t r rest 0x1B
      else if 4 ≤ s.rsc.inFlight + s.rsc.waiting.length then refused s t r rest 0x1C
      else ∃ k : SeekRecord, k.ticket = s.bsc.nextTicket ∧ k.source.code = byteAt r.payload 0
        ∧ (1 ≤ u8At r.payload 0 → k.edgeCode = byteAt r.payload 1) ∧ k.refValue = u16At r.payload 2
        ∧ k.travelLimit = u32At r.payload 4 ∧ k.start = s.pcu.pos
        ∧ carriedOut s
          { s with
            rft := { s.rft with sync := .seeking k, cause := .seek }
            bsc := { commit := none
                     nextTicket := if s.bsc.nextTicket = 255 then 1 else s.bsc.nextTicket + 1 }
            rsc :=
              match s.bsc.commit with
              | none => { s.rsc.syncEvent .seeking .seek s.tsu.timebase with inFlight := s.rsc.inFlight + 1 }
              | some c => { s.rsc.syncEvent .seeking .seek s.tsu.timebase with
                  inFlight := s.rsc.inFlight
                  waiting := s.rsc.waiting ++ [{ ticket := c.ticket, op := .commit, outcome := .abandoned
                                                 time := s.tsu.timebase, pos := none, generation := none }]
                  recent := s.rsc.recent + 1 } }
          t r rest 0x01 [s.bsc.nextTicket])

/-- SEEK_ABORT ends a seek ABORTED and is otherwise answered NOT_PENDING; RELEASE gives up a seek or a lock, abandons a
pending commit, and changes nothing in FREE (R31, R32, R33, R114). -/
def Obligations.SeekAbortAndReleaseReturnToFree : Prop :=
  ∀ (s : State) (r : Request) (rest : List Request),
    (s.offers 0x0D r rest → ∃ t, exec .seekAbort s = .next t
      ∧ (s.rft.sync.state ≠ .seeking → refused s t r rest 0x1E)
      ∧ ∀ k, s.rft.sync = .seeking k → carriedOut s
        { s with
          rft := { s.rft with sync := .free, cause := .abort }
          rsc := (s.rsc.syncEvent .free .abort s.tsu.timebase).complete
            { ticket := k.ticket, op := .seek, outcome := .aborted, time := s.tsu.timebase, pos := none
              generation := none } } t r rest 0x00 [])
    ∧ (s.offers 0x0E r rest → ∃ t, exec .release s = .next t
      ∧ (s.rft.sync.state = .free → carriedOut s s t r rest 0x00 [])
      ∧ (∀ k, s.rft.sync = .seeking k → carriedOut s
        { s with
          rft := { s.rft with sync := .free, cause := .release }
          rsc := (s.rsc.syncEvent .free .release s.tsu.timebase).complete
            { ticket := k.ticket, op := .seek, outcome := .aborted, time := s.tsu.timebase, pos := none
              generation := none } } t r rest 0x00 [])
      ∧ (s.rft.sync.state = .locked ∨ s.rft.sync.state = .lost →
        (s.bsc.commit = none → carriedOut s
          { s with
            rft := { s.rft with sync := .free, cause := .release }
            rsc := s.rsc.syncEvent .free .release s.tsu.timebase } t r rest 0x00 [])
        ∧ ∀ c, s.bsc.commit = some c → carriedOut s
          { s with
            rft := { s.rft with sync := .free, cause := .release }
            bsc := { s.bsc with commit := none }
            rsc := (s.rsc.syncEvent .free .release s.tsu.timebase).complete
              { ticket := c.ticket, op := .commit, outcome := .abandoned, time := s.tsu.timebase, pos := none
                generation := none } } t r rest 0x00 []))

/-- SPEED_SET: RANGE, then BAD_VALUE; else the settings are replaced, the estimate, the presented speed and OVERSPEED
are formed anew in that order, and a stall time already over is entered; nothing outside the TSU and its MOTION events
changes (R55). -/
def Obligations.SpeedSetActsAtOnce : Prop :=
  ∀ (s : State) (r : Request) (rest : List Request) (t1 t2 t3 : Tsu), s.offers 0x10 r rest →
    t1 = { s.tsu with depth := u8At r.payload 0, stallMs := u16At r.payload 2, overspeedLimit := u32At r.payload 4 } →
    t2 = { t1 with estimate := t1.countEstimate } →
    t3 = { t2 with
      presented := t2.decayed
      overspeed :=
        if t1.overspeedLimit = 0 then false
        else if t1.overspeed = true then decide (t1.overspeedLimit - t1.overspeedLimit / 16 < t2.decayed.natAbs)
        else decide (t1.overspeedLimit < t2.decayed.natAbs) } →
    ∃ t, exec .speedSet s = .next t
    ∧ (u16At r.payload 2 = 0 ∨ 16777215 < u32At r.payload 4 → refused s t r rest 0x14)
    ∧ (u16At r.payload 2 ≠ 0 → u32At r.payload 4 ≤ 16777215 →
      ((u8At r.payload 0 ≠ 1 ∧ u8At r.payload 0 ≠ 2 ∧ u8At r.payload 0 ≠ 4 ∧ u8At r.payload 0 ≠ 8)
          ∨ byteAt r.payload 1 ≠ 0 → refused s t r rest 0x13)
      ∧ (u8At r.payload 0 = 1 ∨ u8At r.payload 0 = 2 ∨ u8At r.payload 0 = 4 ∨ u8At r.payload 0 = 8 →
        byteAt r.payload 1 = 0 →
        (∀ newest older, s.tsu.stalled = false → s.tsu.history = newest :: older →
          u16At r.payload 2 * 10000 ≤ (s.tsu.timebase - newest.time).toNat →
          carriedOut s
            { s with
              tsu := { t3 with
                history := [], estimate := 0, presented := 0, stalled := true
                overspeed := if t3.presented = 0 then t3.overspeed else false }
              rsc := (s.rsc.addMotions (overspeedEvents s.tsu.overspeed t3.overspeed)).addMotions (.stallEntered ::
                if t3.overspeed = true ∧ t3.presented ≠ 0 then [.overspeedLeft] else []) } t r rest 0x00 [])
        ∧ ((s.tsu.stalled = true ∨ s.tsu.history = [] ∨ ∃ newest older, s.tsu.history = newest :: older
            ∧ (s.tsu.timebase - newest.time).toNat < u16At r.payload 2 * 10000) →
          carriedOut s
            { s with tsu := t3, rsc := s.rsc.addMotions (overspeedEvents s.tsu.overspeed t3.overspeed) }
            t r rest 0x00 [])))

/-- WINDOW_ADD: RANGE, BAD_VALUE, LOCKED, OVERLAP (with the lowest `on` in the way), TRACK_FULL and POOL_FULL in that
order; else the window stands in its place in SHADOW's sorted list, the pool count rises and dirty is set (R63, R67 to
R72). -/
def Obligations.WindowAddInsertsIntoShadow : Prop :=
  ∀ (s : State) (r : Request) (rest : List Request), s.offers 0x18 r rest → ∃ t, exec .windowAdd s = .next t
    ∧ (7 < u8At r.payload 0 ∨ s.pcu.axis.cpr ≤ u16At r.payload 2 ∨ s.pcu.axis.cpr ≤ u16At r.payload 4 →
      refused s t r rest 0x14)
    ∧ ∀ (i : Fin 8) (tab : TrackTable), u8At r.payload 0 = i.val → tab = s.cts.shadow.tracks.get i →
      u16At r.payload 2 < s.pcu.axis.cpr → u16At r.payload 4 < s.pcu.axis.cpr →
      (2 < u8At r.payload 1 ∨ u16At r.payload 2 = u16At r.payload 4 → refused s t r rest 0x13)
      ∧ ∀ w : Window, winDir? (byteAt r.payload 1) = some w.dir → w.on = u16At r.payload 2 →
        w.off = u16At r.payload 4 → w.on ≠ w.off →
        (s.bsc.commit ≠ none → refused s t r rest 0x16)
        ∧ (s.bsc.commit = none →
          (∀ u : Window, tab.windows.find? (fun u => u.covers w.on || w.covers u.on) = some u →
            carriedOut s s t r rest 0x17 (le16 u.on))
          ∧ (∀ u ∈ tab.windows, u.covers w.on = true ∨ w.covers u.on = true →
            tab.windows.Pairwise (fun a b => a.on < b.on) →
            (∀ x ∈ tab.windows, x.covers w.on = true ∨ w.covers x.on = true → u.on ≤ x.on) →
            carriedOut s s t r rest 0x17 (le16 u.on))
          ∧ ((∀ u ∈ tab.windows, u.covers w.on = false ∧ w.covers u.on = false) →
            (16 ≤ tab.windows.length → refused s t r rest 0x18)
            ∧ (tab.windows.length < 16 → 64 ≤ s.cts.shadow.pool → refused s t r rest 0x19)
            ∧ (tab.windows.length < 16 → s.cts.shadow.pool < 64 → ∃ below above : List Window,
              (tab.windows.Pairwise (fun a b => a.on < b.on) →
                tab.windows = below ++ above ∧ (∀ u ∈ below, u.on < w.on) ∧ ∀ u ∈ above, w.on < u.on)
              ∧ (tab.windows.Pairwise (fun a b => a.on < b.on) → carriedOut s
                { s with cts := { s.cts with
                  shadow :=
                    { tracks := s.cts.shadow.tracks.set i { tab with windows := below ++ w :: above }
                      pool := s.cts.shadow.pool + 1 }
                  dirty := true } }
                t r rest 0x00
                (le8 below.length ++ le8 (tab.windows.length + 1) ++ le8 (s.cts.shadow.pool + 1))))))

/-- WINDOW_REMOVE and TRACK_CLEAR: their refusals in order; else the window with the key, or every window of the track,
leaves SHADOW's list, the pool count falls and dirty is set (R67 to R69, R73, R74). TRACK_PARAM_SET writes SHADOW's two
parameters of a track, SHADOW_REVERT copies ACTIVE into SHADOW and clears dirty; both are refused while a commit is
pending (R67, R68, R75, R76). -/
def Obligations.RemovalsParametersAndRevertActOnShadow : Prop :=
  (∀ (s : State) (r : Request) (rest : List Request),
     (s.offers 0x19 r rest → ∃ t, exec .windowRemove s = .next t
       ∧ (7 < u8At r.payload 0 → refused s t r rest 0x14)
       ∧ ∀ (i : Fin 8) (tab : TrackTable), u8At r.payload 0 = i.val → tab = s.cts.shadow.tracks.get i →
         (byteAt r.payload 1 ≠ 0 → refused s t r rest 0x13)
         ∧ (byteAt r.payload 1 = 0 → s.bsc.commit ≠ none → refused s t r rest 0x16)
         ∧ (byteAt r.payload 1 = 0 → s.bsc.commit = none → (∀ u ∈ tab.windows, u.on ≠ u16At r.payload 2) →
           refused s t r rest 0x1A)
         ∧ ∀ (u : Window) (below above : List Window), byteAt r.payload 1 = 0 → s.bsc.commit = none →
           tab.windows = below ++ u :: above → u.on = u16At r.payload 2 → (∀ x ∈ below, x.on ≠ u.on) →
           carriedOut s
             { s with cts := { s.cts with
               shadow :=
                 { tracks := s.cts.shadow.tracks.set i { tab with windows := below ++ above }
                   pool := s.cts.shadow.pool - 1 }
               dirty := true } }
             t r rest 0x00 (le16 u.off ++ [u.dir.code] ++ le8 below.length))
     ∧ (s.offers 0x1A r rest → ∃ t, exec .trackClear s = .next t
       ∧ (7 < u8At r.payload 0 → refused s t r rest 0x14)
       ∧ ∀ (i : Fin 8) (tab : TrackTable), u8At r.payload 0 = i.val → tab = s.cts.shadow.tracks.get i →
         (s.bsc.commit ≠ none → refused s t r rest 0x16)
         ∧ (s.bsc.commit = none → carriedOut s
           { s with cts := { s.cts with
             shadow :=
               { tracks := s.cts.shadow.tracks.set i { tab with windows := [] }
                 pool := s.cts.shadow.pool - tab.windows.length }
             dirty := true } }
           t r rest 0x00 (le8 tab.windows.length))))
  ∧ (∀ (s : State) (r : Request) (rest : List Request),
     (s.offers 0x1C r rest → ∃ t, exec .trackParamSet s = .next t
       ∧ (7 < u8At r.payload 0 ∨ 255 < u16At r.payload 4 → refused s t r rest 0x14)
       ∧ ∀ i : Fin 8, u8At r.payload 0 = i.val → u16At r.payload 4 ≤ 255 →
         (byteAt r.payload 1 ≠ 0 → refused s t r rest 0x13)
         ∧ (byteAt r.payload 1 = 0 → s.bsc.commit ≠ none → refused s t r rest 0x16)
         ∧ (byteAt r.payload 1 = 0 → s.bsc.commit = none → carriedOut s
           { s with cts := { s.cts with
             shadow := { s.cts.shadow with tracks := (s.cts.shadow.tracks.set i
               { windows := (s.cts.shadow.tracks.get i).windows
                 leadUs := u16At r.payload 2, hysteresis := u16At r.payload 4 }) }
             dirty := true } } t r rest 0x00 []))
     ∧ (s.offers 0x1D r rest → ∃ t, exec .shadowRevert s = .next t
       ∧ (s.bsc.commit ≠ none → refused s t r rest 0x16)
       ∧ (s.bsc.commit = none → carriedOut s
         { s with cts := { s.cts with shadow := s.cts.active, dirty := false } } t r rest 0x00
         (le8 s.cts.active.pool))))

/-- COMMIT with policy NOW: BAD_VALUE, then PENDING; else SHADOW is copied into ACTIVE, the generation rises, dirty is
cleared and the hysteresis memories are cleared, in every sync state (R77, R89, R107, R108). COMMIT_CANCEL ends a
pending commit CANCELLED and leaves banks, generation and dirty; with none pending it is answered NOT_PENDING (R113,
R115). That the completion's place among those of its sample stays open (`recent`) is log 31. -/
def Obligations.CommitNowSwapsAndCommitCancelEnds : Prop :=
  (∀ (s : State) (r : Request) (rest : List Request), s.offers 0x20 r rest → u8At r.payload 0 = 0 →
     ∃ t, exec .commitNow s = .next t
     ∧ (if byteAt r.payload 1 ≠ 0 then refused s t r rest 0x13
       else if s.bsc.commit ≠ none then refused s t r rest 0x1B
       else carriedOut s
         { s with
           cts := { active := s.cts.shadow, shadow := s.cts.shadow, generation := s.cts.generation + 1, dirty := false }
           tev := s.tev.clearMemories } t r rest 0x00 (word16 (s.cts.generation + 1))))
  ∧ (∀ (s : State) (r : Request) (rest : List Request), s.offers 0x21 r rest → ∃ t, exec .commitCancel s = .next t
     ∧ (s.bsc.commit = none → refused s t r rest 0x1E)
     ∧ ∀ c, s.bsc.commit = some c → carriedOut s
       { s with
         bsc := { s.bsc with commit := none }
         rsc := { s.rsc with
           inFlight := s.rsc.inFlight - 1
           waiting := s.rsc.waiting ++ [{ ticket := c.ticket, op := .commit, outcome := .cancelled
                                          time := s.tsu.timebase, pos := none, generation := none }]
           recent := s.rsc.recent + 1 } }
       t r rest 0x00 [c.ticket, if c.policy = .atIndex then 0x02 else 0x01])

/-- COMMIT with a position policy: RANGE, BAD_VALUE, STATE, PENDING and NO_ROOM in that order; else it takes the next
ticket, counts one operation in flight, and is pending, and no step made before it is its arrival (R110, R199). A policy
that is none of the three is refused by each COMMIT row (R105, R106, R107, R109; log 8 for the last). -/
def Obligations.CommitWithAPositionPolicyWaits : Prop :=
  ∀ (s : State) (r : Request) (rest : List Request), s.offers 0x20 r rest →
    (u8At r.payload 0 = 1 → ∃ t, exec .commitAtPosition s = .next t
      ∧ (if s.pcu.axis.cpr ≤ u16At r.payload 2 then refused s t r rest 0x14
        else if byteAt r.payload 1 ≠ 0 then refused s t r rest 0x13
        else if s.rft.sync.state ≠ .locked then refused s t r rest 0x15
        else if s.bsc.commit ≠ none then refused s t r rest 0x1B
        else if 4 ≤ s.rsc.inFlight + s.rsc.waiting.length then refused s t r rest 0x1C
        else carriedOut s
          { s with
            bsc := { commit := some { ticket := s.bsc.nextTicket, policy := .atPosition (u16At r.payload 2) }
                     nextTicket := if s.bsc.nextTicket = 255 then 1 else s.bsc.nextTicket + 1 }
            rsc := { s.rsc with inFlight := s.rsc.inFlight + 1 }
            sample := { s.sample with arrival := none } } t r rest 0x01 [s.bsc.nextTicket]))
    ∧ (u8At r.payload 0 = 2 → ∃ t, exec .commitAtIndex s = .next t
      ∧ (if byteAt r.payload 1 ≠ 0 then refused s t r rest 0x13
        else if s.rft.sync.state ≠ .locked then refused s t r rest 0x15
        else if s.pcu.axis.indexEnable = false then refused s t r rest 0x15
        else if s.bsc.commit ≠ none then refused s t r rest 0x1B
        else if 4 ≤ s.rsc.inFlight + s.rsc.waiting.length then refused s t r rest 0x1C
        else carriedOut s
          { s with
            bsc := { commit := some { ticket := s.bsc.nextTicket, policy := .atIndex }
                     nextTicket := if s.bsc.nextTicket = 255 then 1 else s.bsc.nextTicket + 1 }
            rsc := { s.rsc with inFlight := s.rsc.inFlight + 1 }
            sample := { s.sample with arrival := none } } t r rest 0x01 [s.bsc.nextTicket]))
    ∧ (2 < u8At r.payload 0 → ∀ c ∈ [Instr.commitNow, .commitAtPosition, .commitAtIndex],
      ∃ t, exec c s = .next t ∧ refused s t r rest 0x13)

/-- OUTPUT_ENABLE and TRACK_MODE_SET write their settings, evaluate, and answer with what the evaluation has set;
neither clears a memory (R82, R89, R98, R99). -/
def Obligations.OutputRequestsSetAndEvaluate : Prop :=
  ∀ (s : State) (r : Request) (rest : List Request),
    (s.offers 0x28 r rest → ∃ t, exec .outputEnable s = .next t
      ∧ (1 < u8At r.payload 0 → refused s t r rest 0x13)
      ∧ (u8At r.payload 0 ≤ 1 → ∃ levels : Byte,
        (∀ i : Fin 8, levels.getLsbD i.val = (t.tev.tracks.get i).level)
        ∧ carriedOut s { s with tev := { s.tev with enable := decide (u8At r.payload 0 = 1) } } t r rest 0x00
          [bit s.tev.enable, levels]))
    ∧ (s.offers 0x29 r rest → ∃ t, exec .trackModeSet s = .next t
      ∧ (7 < u8At r.payload 0 → refused s t r rest 0x14)
      ∧ ∀ i : Fin 8, u8At r.payload 0 = i.val →
        (2 < u8At r.payload 1 ∨ 2 < u8At r.payload 2 ∨ 1 < u8At r.payload 3 ∨ 1 < u8At r.payload 4
          ∨ byteAt r.payload 5 ≠ 0 → refused s t r rest 0x13)
        ∧ ∀ (mode : TrackMode) (safe : SafeLevel) (polarity : Polarity), mode.code = byteAt r.payload 1 →
          safe.code = byteAt r.payload 2 → polarity.code = byteAt r.payload 3 → u8At r.payload 4 ≤ 1 →
          byteAt r.payload 5 = 0 →
          carriedOut s
            { s with tev := { s.tev with tracks := (s.tev.tracks.set i
              { s.tev.tracks.get i with
                mode := mode, safe := safe, polarity := polarity, stallInhibit := decide (u8At r.payload 4 = 1) }) } }
            t r rest 0x00
            [bit (t.tev.tracks.get i).level, (trackCause s.evalInputs (t.tev.tracks.get i)).code,
              bit (t.tev.tracks.get i).pin])

/-- LATCH_SET replaces a latch's configuration, arms it or turns it OFF and ends its holdoff; LATCH_ARM re-arms a latch
that is not OFF. Neither touches the counters, the filter or the queue (R133, R134, R135). -/
def Obligations.LatchRequestsConfigureAndArm : Prop :=
  ∀ (s : State) (r : Request) (rest : List Request),
    (s.offers 0x30 r rest → ∃ t, exec .latchSet s = .next t
      ∧ (3 < u8At r.payload 0 ∨ 15 < u8At r.payload 3 → refused s t r rest 0x14)
      ∧ (u8At r.payload 0 ≤ 3 → u8At r.payload 3 ≤ 15 → 3 < u8At r.payload 1 ∨ 1 < u8At r.payload 2 →
        refused s t r rest 0x13)
      ∧ ∀ (n : Fin 4) (l : Latch), u8At r.payload 0 = n.val → u8At r.payload 3 ≤ 15 → u8At r.payload 2 ≤ 1 →
        edgeSel? (byteAt r.payload 1) = some l.edge →
        l = { s.lcu.latches.get n with
          edge := l.edge, mode := if u8At r.payload 2 = 1 then .single else .continuous
          holdoffUs := u16At r.payload 4, filterLen := u8At r.payload 3
          arm := if l.edge = .off then .off else .armed, holdoff := none } →
        carriedOut s { s with lcu := { s.lcu with latches := s.lcu.latches.set n l } } t r rest 0x00
          [l.arm.code, bit (s.lcu.latches.get n).filter.level])
    ∧ (s.offers 0x31 r rest → ∃ t, exec .latchArm s = .next t
      ∧ (3 < u8At r.payload 0 → refused s t r rest 0x14)
      ∧ ∀ (n : Fin 4) (l : Latch), u8At r.payload 0 = n.val → l = s.lcu.latches.get n →
        (l.arm = .off → refused s t r rest 0x15)
        ∧ (l.arm ≠ .off → carriedOut s
          { s with lcu := { s.lcu with latches := s.lcu.latches.set n { l with arm := .armed } } } t r rest 0x00
          ([l.arm.code, bit l.filter.level] ++ word16 l.lost ++ word16 l.suppressed)))

/-- CAPTURE_READ removes and returns the oldest records with the latches' state, CAPTURE_FLUSH removes them all; neither
touches the tally, a latch or a counter (R131, R136, R137, R196). -/
def Obligations.CaptureRequestsRemoveRecords : Prop :=
  ∀ (s : State) (r : Request) (rest : List Request),
    (s.offers 0x32 r rest → ∃ t, exec .captureRead s = .next t
      ∧ (if u8At r.payload 0 = 0 ∨ 8 < u8At r.payload 0 then refused s t r rest 0x14
        else carriedOut s { s with lcu := { s.lcu with queue := s.lcu.queue.drop (u8At r.payload 0) } } t r rest 0x00
          (le8 (min (u8At r.payload 0) s.lcu.queue.length) ++ le8 (s.lcu.queue.length - u8At r.payload 0)
            ++ [s.lcu.tally, 0x00]
            ++ ([s.lcu.latches.get 0, s.lcu.latches.get 1, s.lcu.latches.get 2, s.lcu.latches.get 3].map fun l =>
              [l.arm.code, bit l.filter.level] ++ word16 l.lost ++ word16 l.suppressed).flatten
            ++ ((s.lcu.queue.take (u8At r.payload 0)).map fun c =>
              [BitVec.ofNat 8 c.latch.val, c.edge.code, flagByte [c.referenced, c.gap], c.lostBefore]
                ++ le16 c.pos.angle ++ word16 c.generation ++ word32 c.pos.rev ++ word32 c.time).flatten)))
    ∧ (s.offers 0x33 r rest → ∃ t, exec .captureFlush s = .next t
      ∧ carriedOut s { s with lcu := { s.lcu with queue := [] } } t r rest 0x00
        (le8 s.lcu.queue.length ++ [s.lcu.tally]))

/-- REPORT_SET empties the accumulators of the kinds it removes and starts those it adds empty, takes the enable set and
the interval, and starts or stops the timer; the events of the RSC are folded first (log 29). REPORT_GRANT raises the
credit, saturating at 15. Nothing else changes (R145, R158). -/
def Obligations.ReportRequestsConfigureAndGrant : Prop :=
  ∀ (s : State) (r : Request) (rest : List Request),
    (s.offers 0x38 r rest → ∃ t, exec .reportSet s = .next t
      ∧ (byteAt r.payload 0 &&& 0x89 ≠ 0 ∨ byteAt r.payload 1 ≠ 0 → refused s t r rest 0x13)
      ∧ ∀ e : EnableSet, byteAt r.payload 0 &&& 0x89 = 0 → byteAt r.payload 1 = 0 →
        e = { sync := (byteAt r.payload 0).getLsbD 1, fault := (byteAt r.payload 0).getLsbD 2
              motion := (byteAt r.payload 0).getLsbD 4, capture := (byteAt r.payload 0).getLsbD 5
              position := (byteAt r.payload 0).getLsbD 6 } →
        carriedOut s
          { s with rsc := { s.rsc with
            enable := e, intervalMs := u16At r.payload 2
            timer := if e.position = true ∧ u16At r.payload 2 ≠ 0 then some s.tsu.timebase else none
            fresh := []
            sync := if e.sync = true ∧ s.rsc.enable.sync = true then s.rsc.sync else none
            fault := if e.fault = true ∧ s.rsc.enable.fault = true then s.rsc.takenAll.fault
              else ⟨false, false, false, false⟩
            motion := if e.motion = true ∧ s.rsc.enable.motion = true then s.rsc.takenAll.motion
              else ⟨false, false, false, false, 0⟩
            position := if e.position = true ∧ s.rsc.enable.position = true then s.rsc.position else none } }
          t r rest 0x00
          ([flagByte [false, s.rsc.enable.sync, s.rsc.enable.fault, false, s.rsc.enable.motion, s.rsc.enable.capture,
            s.rsc.enable.position], 0x00] ++ le16 s.rsc.intervalMs))
    ∧ (s.offers 0x39 r rest → ∃ t, exec .reportGrant s = .next t
      ∧ (15 < u8At r.payload 0 → refused s t r rest 0x14)
      ∧ (u8At r.payload 0 ≤ 15 → carriedOut s
        { s with rsc := { s.rsc with credit := min (s.rsc.credit + u8At r.payload 0) 15 } } t r rest 0x00
        (le8 (min (s.rsc.credit + u8At r.payload 0) 15))))

/-! ## What every step keeps -/

/-- The state after a power-on reset is sound in every part. -/
def Obligations.ResetStateIsSound : Prop := State.reset.sound

/-- CPR stays in its range, and below it stay the angle, every angle of the seek and reference records, the angle of a
pending AT_POSITION commit and the position of every hysteresis memory; a commit is pending in LOCKED alone (R10, R16 to
R18, R25, R82, R88, R105, R107, R114). Captures and completions keep the angles of an older CPR (R19). The index-error limits stay in 1..7 and the error count never needs to exceed 7 (R36, R39). -/
def Obligations.AnglesAndErrorCountsStayInRange : Prop :=
  (∀ s t : State, step s = .next t → s.axisSound → t.axisSound)
  ∧ (∀ s t : State, step s = .next t → s.checksSound → t.checksSound)

/-- In both banks every list stays strictly sorted, free of overlap and at most 16 long, every stored angle stays below
CPR, and the pool count stays the number of windows, at most 64 (R59, R60, R64). -/
def Obligations.BanksStayWellFormed : Prop :=
  ∀ s t : State, step s = .next t → 8 ≤ s.pcu.axis.cpr → s.banksSound → t.banksSound

/-- At most one seek and one commit are in flight, with the completions waiting never more than 4, and a commit is
pending in LOCKED alone (R106, R114, R152). The tickets in use stay distinct and among the latest that the counter gave,
those not reported yet of this sample in order, and 0 is never given (R105, R153). -/
def Obligations.LongOperationsStayCounted : Prop :=
  (∀ s t : State, step s = .next t → s.operationsSound → t.operationsSound)
  ∧ (∀ s t : State, step s = .next t → s.operationsSound → s.ticketsSound → t.ticketsSound)

/-- STALLED stays set exactly while the history is empty, the history holds at most 9 entries of one direction, and a
stalled axis has speed 0 (R44, R45, R49, R53). -/
def Obligations.StalledMeansAnEmptyHistory : Prop := ∀ s t : State, step s = .next t → s.tsu.sound → t.tsu.sound

/-- Every pin shows its level through its polarity, every level is 0 while the enable is off, and a held level stands
only during an inhibition (R90, R93, R95). -/
def Obligations.PinsShowTheirLevels : Prop := ∀ s t : State, step s = .next t → s.outputsSound → t.outputsSound

/-- The capture queue holds at most 32 records, each marks a gap exactly when captures were lost before it, a latch is
OFF exactly when its selection is OFF, and a holdoff runs only where one is set (R124, R125, R129, R131). Report credit
never exceeds 15, an accumulator of a disabled kind is empty, and the timer runs exactly while POSITION is enabled with
an interval (R141, R145, R157, R158). -/
def Obligations.CaptureQueueAndReportStateStaySound : Prop :=
  (∀ s t : State, step s = .next t → s.lcu.sound → t.lcu.sound)
  ∧ (∀ s t : State, step s = .next t → s.rsc.sound → t.rsc.sound)

/-- The link's queues stay within their bounds, no request stands twice in the cache and the inbound queue, the buffer
agrees with LEN, the gap timer runs exactly inside a frame, and no reply waits on a free line (R164 to R174, R178,
R179). -/
def Obligations.LinkQueuesStayBounded : Prop := ∀ s t : State, step s = .next t → s.lkp.sound → t.lkp.sound

/-- ACTIVE changes at a swap alone, which copies SHADOW, raises the generation by one and clears dirty, or at a reset;
while a commit is pending SHADOW does not change (R66, R68, R77). A request that executes once an event of its sample has
changed the angle or the speed first finds the step, the stall expiry and the decay taken (R48, log 34), which make at
most one swap, that of the pending commit. -/
def Obligations.ActiveChangesAtASwapAlone : Prop :=
  (∀ (c : Instr) (s t : State), exec c s = .next t → ¬s.clearedBy c →
    ((requestKind c).isSome = true ∨ c = .badKind → s.sample.moved = true → s.speedDue = false) →
    ((t.cts.active = s.cts.active ∧ t.cts.generation = s.cts.generation)
      ∨ (t.cts.active = s.cts.shadow ∧ t.cts.shadow = s.cts.shadow ∧ t.cts.generation = s.cts.generation + 1
        ∧ t.cts.dirty = false))
    ∧ (s.bsc.commit ≠ none → t.cts.shadow = s.cts.shadow))
  ∧ ∀ s : State, s.catchUp.cts = s.cts
    ∨ (s.bsc.commit ≠ none ∧ s.catchUp.bsc.commit = none ∧ s.catchUp.cts = s.cts.swap)
end

