-- ==== Sys2Proof/Laws/State.lean ====
section
/-! SUPPORT. The frame of every operation on the state: one lemma for each field an operation leaves alone, and one for
each field a small operation sets, so that no later proof unfolds a record update. -/

namespace Sys2Proof.Machine

/-! ### State.noteView -/

@[simp] theorem State.noteView_qdu (s : State) : (s.noteView).qdu = s.qdu := rfl
@[simp] theorem State.noteView_pcu (s : State) : (s.noteView).pcu = s.pcu := rfl
@[simp] theorem State.noteView_rft (s : State) : (s.noteView).rft = s.rft := rfl
@[simp] theorem State.noteView_tsu (s : State) : (s.noteView).tsu = s.tsu := rfl
@[simp] theorem State.noteView_cts (s : State) : (s.noteView).cts = s.cts := rfl
@[simp] theorem State.noteView_bsc (s : State) : (s.noteView).bsc = s.bsc := rfl
@[simp] theorem State.noteView_tev (s : State) : (s.noteView).tev = s.tev := rfl
@[simp] theorem State.noteView_lcu (s : State) : (s.noteView).lcu = s.lcu := rfl
@[simp] theorem State.noteView_rsc (s : State) : (s.noteView).rsc = s.rsc := rfl
@[simp] theorem State.noteView_lkp (s : State) : (s.noteView).lkp = s.lkp := rfl
@[simp] theorem State.noteView_nrstLow (s : State) : (s.noteView).nrstLow = s.nrstLow := rfl
@[simp] theorem State.noteView_free (s : State) : (s.noteView).free = s.free := rfl
@[simp] theorem State.noteView_pending (s : State) : (s.noteView).pending = s.pending := rfl

/-! ### State.closeViews -/

@[simp] theorem State.closeViews_qdu (s : State) : (s.closeViews).qdu = s.qdu := rfl
@[simp] theorem State.closeViews_pcu (s : State) : (s.closeViews).pcu = s.pcu := rfl
@[simp] theorem State.closeViews_rft (s : State) : (s.closeViews).rft = s.rft := rfl
@[simp] theorem State.closeViews_tsu (s : State) : (s.closeViews).tsu = s.tsu := rfl
@[simp] theorem State.closeViews_cts (s : State) : (s.closeViews).cts = s.cts := rfl
@[simp] theorem State.closeViews_bsc (s : State) : (s.closeViews).bsc = s.bsc := rfl
@[simp] theorem State.closeViews_tev (s : State) : (s.closeViews).tev = s.tev := rfl
@[simp] theorem State.closeViews_lcu (s : State) : (s.closeViews).lcu = s.lcu := rfl
@[simp] theorem State.closeViews_rsc (s : State) : (s.closeViews).rsc = s.rsc := rfl
@[simp] theorem State.closeViews_lkp (s : State) : (s.closeViews).lkp = s.lkp := rfl
@[simp] theorem State.closeViews_nrstLow (s : State) : (s.closeViews).nrstLow = s.nrstLow := rfl
@[simp] theorem State.closeViews_free (s : State) : (s.closeViews).free = s.free := rfl
@[simp] theorem State.closeViews_pending (s : State) : (s.closeViews).pending = s.pending := rfl
@[simp] theorem State.closeViews_sample_inputs (s : State) : (s.closeViews).sample.inputs = s.sample.inputs := rfl
@[simp] theorem State.closeViews_sample_inSample (s : State) : (s.closeViews).sample.inSample = s.sample.inSample := rfl
@[simp] theorem State.closeViews_sample_ab (s : State) : (s.closeViews).sample.ab = s.sample.ab := rfl
@[simp] theorem State.closeViews_sample_z (s : State) : (s.closeViews).sample.z = s.sample.z := rfl
@[simp] theorem State.closeViews_sample_edges (s : State) : (s.closeViews).sample.edges = s.sample.edges := rfl
@[simp] theorem State.closeViews_sample_refEdges (s : State) : (s.closeViews).sample.refEdges = s.sample.refEdges := rfl
@[simp] theorem State.closeViews_sample_arrival (s : State) : (s.closeViews).sample.arrival = s.sample.arrival := rfl

/-! ### State.noteMove -/

@[simp] theorem State.noteMove_qdu (s : State) : s.noteMove.qdu = s.qdu := rfl
@[simp] theorem State.noteMove_pcu (s : State) : s.noteMove.pcu = s.pcu := rfl
@[simp] theorem State.noteMove_rft (s : State) : s.noteMove.rft = s.rft := rfl
@[simp] theorem State.noteMove_tsu (s : State) : s.noteMove.tsu = s.tsu := rfl
@[simp] theorem State.noteMove_cts (s : State) : s.noteMove.cts = s.cts := rfl
@[simp] theorem State.noteMove_bsc (s : State) : s.noteMove.bsc = s.bsc := rfl
@[simp] theorem State.noteMove_tev (s : State) : s.noteMove.tev = s.tev := rfl
@[simp] theorem State.noteMove_lcu (s : State) : s.noteMove.lcu = s.lcu := rfl
@[simp] theorem State.noteMove_rsc (s : State) : s.noteMove.rsc = s.rsc := rfl
@[simp] theorem State.noteMove_lkp (s : State) : s.noteMove.lkp = s.lkp := rfl
@[simp] theorem State.noteMove_nrstLow (s : State) : s.noteMove.nrstLow = s.nrstLow := rfl
@[simp] theorem State.noteMove_free (s : State) : s.noteMove.free = s.free := rfl
@[simp] theorem State.noteMove_pending (s : State) : s.noteMove.pending = s.pending := rfl
@[simp] theorem State.noteMove_sample_inputs (s : State) : s.noteMove.sample.inputs = s.sample.inputs := rfl
@[simp] theorem State.noteMove_sample_inSample (s : State) : s.noteMove.sample.inSample = s.sample.inSample := rfl
@[simp] theorem State.noteMove_sample_ab (s : State) : s.noteMove.sample.ab = s.sample.ab := rfl
@[simp] theorem State.noteMove_sample_z (s : State) : s.noteMove.sample.z = s.sample.z := rfl
@[simp] theorem State.noteMove_sample_edges (s : State) : s.noteMove.sample.edges = s.sample.edges := rfl
@[simp] theorem State.noteMove_sample_refEdges (s : State) : s.noteMove.sample.refEdges = s.sample.refEdges := rfl
@[simp] theorem State.noteMove_sample_arrival (s : State) : s.noteMove.sample.arrival = s.sample.arrival := rfl
@[simp] theorem State.noteMove_sample_views (s : State) : s.noteMove.sample.views = s.sample.views := rfl
@[simp] theorem State.noteMove_sample_reach (s : State) : s.noteMove.sample.reach = s.sample.reach := rfl

/-! ### State.jump -/

@[simp] theorem State.jump_qdu (p : AbsPos) (s : State) : (s.jump p).qdu = s.qdu := rfl
@[simp] theorem State.jump_rft (p : AbsPos) (s : State) : (s.jump p).rft = s.rft := rfl
@[simp] theorem State.jump_tsu (p : AbsPos) (s : State) : (s.jump p).tsu = s.tsu := rfl
@[simp] theorem State.jump_cts (p : AbsPos) (s : State) : (s.jump p).cts = s.cts := rfl
@[simp] theorem State.jump_bsc (p : AbsPos) (s : State) : (s.jump p).bsc = s.bsc := rfl
@[simp] theorem State.jump_lcu (p : AbsPos) (s : State) : (s.jump p).lcu = s.lcu := rfl
@[simp] theorem State.jump_rsc (p : AbsPos) (s : State) : (s.jump p).rsc = s.rsc := rfl
@[simp] theorem State.jump_lkp (p : AbsPos) (s : State) : (s.jump p).lkp = s.lkp := rfl
@[simp] theorem State.jump_nrstLow (p : AbsPos) (s : State) : (s.jump p).nrstLow = s.nrstLow := rfl
@[simp] theorem State.jump_sample (p : AbsPos) (s : State) : (s.jump p).sample = s.sample := rfl
@[simp] theorem State.jump_free (p : AbsPos) (s : State) : (s.jump p).free = s.free := rfl
@[simp] theorem State.jump_pending (p : AbsPos) (s : State) : (s.jump p).pending = s.pending := rfl

/-! ### State.swap -/

@[simp] theorem State.swap_qdu (s : State) : (s.swap).qdu = s.qdu := rfl
@[simp] theorem State.swap_pcu (s : State) : (s.swap).pcu = s.pcu := rfl
@[simp] theorem State.swap_rft (s : State) : (s.swap).rft = s.rft := rfl
@[simp] theorem State.swap_tsu (s : State) : (s.swap).tsu = s.tsu := rfl
@[simp] theorem State.swap_bsc (s : State) : (s.swap).bsc = s.bsc := rfl
@[simp] theorem State.swap_lcu (s : State) : (s.swap).lcu = s.lcu := rfl
@[simp] theorem State.swap_rsc (s : State) : (s.swap).rsc = s.rsc := rfl
@[simp] theorem State.swap_lkp (s : State) : (s.swap).lkp = s.lkp := rfl
@[simp] theorem State.swap_nrstLow (s : State) : (s.swap).nrstLow = s.nrstLow := rfl
@[simp] theorem State.swap_free (s : State) : (s.swap).free = s.free := rfl
@[simp] theorem State.swap_pending (s : State) : (s.swap).pending = s.pending := rfl

/-! ### State.endSwapped -/

@[simp] theorem State.endSwapped_qdu (c : Commit) (p : AbsPos) (s : State) : (s.endSwapped c p).qdu = s.qdu := rfl
@[simp] theorem State.endSwapped_pcu (c : Commit) (p : AbsPos) (s : State) : (s.endSwapped c p).pcu = s.pcu := rfl
@[simp] theorem State.endSwapped_rft (c : Commit) (p : AbsPos) (s : State) : (s.endSwapped c p).rft = s.rft := rfl
@[simp] theorem State.endSwapped_tsu (c : Commit) (p : AbsPos) (s : State) : (s.endSwapped c p).tsu = s.tsu := rfl
@[simp] theorem State.endSwapped_lcu (c : Commit) (p : AbsPos) (s : State) : (s.endSwapped c p).lcu = s.lcu := rfl
@[simp] theorem State.endSwapped_lkp (c : Commit) (p : AbsPos) (s : State) : (s.endSwapped c p).lkp = s.lkp := rfl
@[simp] theorem State.endSwapped_nrstLow (c : Commit) (p : AbsPos) (s : State) : (s.endSwapped c p).nrstLow = s.nrstLow :=
  rfl
@[simp] theorem State.endSwapped_free (c : Commit) (p : AbsPos) (s : State) : (s.endSwapped c p).free = s.free := rfl
@[simp] theorem State.endSwapped_pending (c : Commit) (p : AbsPos) (s : State) : (s.endSwapped c p).pending = s.pending :=
  rfl

/-! ### State.bscArrive -/

@[simp] theorem State.bscArrive_qdu (p : AbsPos) (s : State) : (s.bscArrive p).qdu = s.qdu := by
  unfold State.bscArrive; (repeat' split) <;> rfl
@[simp] theorem State.bscArrive_pcu (p : AbsPos) (s : State) : (s.bscArrive p).pcu = s.pcu := by
  unfold State.bscArrive; (repeat' split) <;> rfl
@[simp] theorem State.bscArrive_rft (p : AbsPos) (s : State) : (s.bscArrive p).rft = s.rft := by
  unfold State.bscArrive; (repeat' split) <;> rfl
@[simp] theorem State.bscArrive_tsu (p : AbsPos) (s : State) : (s.bscArrive p).tsu = s.tsu := by
  unfold State.bscArrive; (repeat' split) <;> rfl
@[simp] theorem State.bscArrive_lcu (p : AbsPos) (s : State) : (s.bscArrive p).lcu = s.lcu := by
  unfold State.bscArrive; (repeat' split) <;> rfl
@[simp] theorem State.bscArrive_lkp (p : AbsPos) (s : State) : (s.bscArrive p).lkp = s.lkp := by
  unfold State.bscArrive; (repeat' split) <;> rfl
@[simp] theorem State.bscArrive_nrstLow (p : AbsPos) (s : State) : (s.bscArrive p).nrstLow = s.nrstLow := by
  unfold State.bscArrive; (repeat' split) <;> rfl
@[simp] theorem State.bscArrive_free (p : AbsPos) (s : State) : (s.bscArrive p).free = s.free := by
  unfold State.bscArrive; (repeat' split) <;> rfl
@[simp] theorem State.bscArrive_pending (p : AbsPos) (s : State) : (s.bscArrive p).pending = s.pending := by
  unfold State.bscArrive; (repeat' split) <;> rfl

/-! ### State.bscIndex -/

@[simp] theorem State.bscIndex_qdu (s : State) : (s.bscIndex).qdu = s.qdu := by
  unfold State.bscIndex; (repeat' split) <;> rfl
@[simp] theorem State.bscIndex_pcu (s : State) : (s.bscIndex).pcu = s.pcu := by
  unfold State.bscIndex; (repeat' split) <;> rfl
@[simp] theorem State.bscIndex_rft (s : State) : (s.bscIndex).rft = s.rft := by
  unfold State.bscIndex; (repeat' split) <;> rfl
@[simp] theorem State.bscIndex_tsu (s : State) : (s.bscIndex).tsu = s.tsu := by
  unfold State.bscIndex; (repeat' split) <;> rfl
@[simp] theorem State.bscIndex_lcu (s : State) : (s.bscIndex).lcu = s.lcu := by
  unfold State.bscIndex; (repeat' split) <;> rfl
@[simp] theorem State.bscIndex_lkp (s : State) : (s.bscIndex).lkp = s.lkp := by
  unfold State.bscIndex; (repeat' split) <;> rfl
@[simp] theorem State.bscIndex_nrstLow (s : State) : (s.bscIndex).nrstLow = s.nrstLow := by
  unfold State.bscIndex; (repeat' split) <;> rfl
@[simp] theorem State.bscIndex_free (s : State) : (s.bscIndex).free = s.free := by
  unfold State.bscIndex; (repeat' split) <;> rfl
@[simp] theorem State.bscIndex_pending (s : State) : (s.bscIndex).pending = s.pending := by
  unfold State.bscIndex; (repeat' split) <;> rfl

/-! ### State.bscLeft -/

@[simp] theorem State.bscLeft_qdu (s : State) : (s.bscLeft).qdu = s.qdu := rfl
@[simp] theorem State.bscLeft_pcu (s : State) : (s.bscLeft).pcu = s.pcu := rfl
@[simp] theorem State.bscLeft_rft (s : State) : (s.bscLeft).rft = s.rft := rfl
@[simp] theorem State.bscLeft_tsu (s : State) : (s.bscLeft).tsu = s.tsu := rfl
@[simp] theorem State.bscLeft_cts (s : State) : (s.bscLeft).cts = s.cts := rfl
@[simp] theorem State.bscLeft_tev (s : State) : (s.bscLeft).tev = s.tev := rfl
@[simp] theorem State.bscLeft_lcu (s : State) : (s.bscLeft).lcu = s.lcu := rfl
@[simp] theorem State.bscLeft_lkp (s : State) : (s.bscLeft).lkp = s.lkp := rfl
@[simp] theorem State.bscLeft_nrstLow (s : State) : (s.bscLeft).nrstLow = s.nrstLow := rfl
@[simp] theorem State.bscLeft_sample (s : State) : (s.bscLeft).sample = s.sample := rfl
@[simp] theorem State.bscLeft_free (s : State) : (s.bscLeft).free = s.free := rfl
@[simp] theorem State.bscLeft_pending (s : State) : (s.bscLeft).pending = s.pending := rfl

/-! ### State.changeSync -/

@[simp] theorem State.changeSync_qdu (n : Sync) (c : SyncCause) (s : State) : (s.changeSync n c).qdu = s.qdu := rfl
@[simp] theorem State.changeSync_pcu (n : Sync) (c : SyncCause) (s : State) : (s.changeSync n c).pcu = s.pcu := rfl
@[simp] theorem State.changeSync_tsu (n : Sync) (c : SyncCause) (s : State) : (s.changeSync n c).tsu = s.tsu := rfl
@[simp] theorem State.changeSync_cts (n : Sync) (c : SyncCause) (s : State) : (s.changeSync n c).cts = s.cts := rfl
@[simp] theorem State.changeSync_bsc (n : Sync) (c : SyncCause) (s : State) : (s.changeSync n c).bsc = s.bsc := rfl
@[simp] theorem State.changeSync_tev (n : Sync) (c : SyncCause) (s : State) : (s.changeSync n c).tev = s.tev := rfl
@[simp] theorem State.changeSync_lcu (n : Sync) (c : SyncCause) (s : State) : (s.changeSync n c).lcu = s.lcu := rfl
@[simp] theorem State.changeSync_lkp (n : Sync) (c : SyncCause) (s : State) : (s.changeSync n c).lkp = s.lkp := rfl
@[simp] theorem State.changeSync_nrstLow (n : Sync) (c : SyncCause) (s : State) : (s.changeSync n c).nrstLow = s.nrstLow :=
  rfl
@[simp] theorem State.changeSync_free (n : Sync) (c : SyncCause) (s : State) : (s.changeSync n c).free = s.free := rfl
@[simp] theorem State.changeSync_pending (n : Sync) (c : SyncCause) (s : State) : (s.changeSync n c).pending = s.pending :=
  rfl

/-! ### State.failSeek -/

@[simp] theorem State.failSeek_qdu (r : SeekRecord) (o : EndOutcome) (c : SyncCause) (s : State) : (s.failSeek r o c).qdu = s.qdu :=
  rfl
@[simp] theorem State.failSeek_pcu (r : SeekRecord) (o : EndOutcome) (c : SyncCause) (s : State) : (s.failSeek r o c).pcu = s.pcu :=
  rfl
@[simp] theorem State.failSeek_tsu (r : SeekRecord) (o : EndOutcome) (c : SyncCause) (s : State) : (s.failSeek r o c).tsu = s.tsu :=
  rfl
@[simp] theorem State.failSeek_cts (r : SeekRecord) (o : EndOutcome) (c : SyncCause) (s : State) : (s.failSeek r o c).cts = s.cts :=
  rfl
@[simp] theorem State.failSeek_bsc (r : SeekRecord) (o : EndOutcome) (c : SyncCause) (s : State) : (s.failSeek r o c).bsc = s.bsc :=
  rfl
@[simp] theorem State.failSeek_tev (r : SeekRecord) (o : EndOutcome) (c : SyncCause) (s : State) : (s.failSeek r o c).tev = s.tev :=
  rfl
@[simp] theorem State.failSeek_lcu (r : SeekRecord) (o : EndOutcome) (c : SyncCause) (s : State) : (s.failSeek r o c).lcu = s.lcu :=
  rfl
@[simp] theorem State.failSeek_lkp (r : SeekRecord) (o : EndOutcome) (c : SyncCause) (s : State) : (s.failSeek r o c).lkp = s.lkp :=
  rfl
@[simp] theorem State.failSeek_nrstLow (r : SeekRecord) (o : EndOutcome) (c : SyncCause) (s : State) : (s.failSeek r o c).nrstLow = s.nrstLow :=
  rfl
@[simp] theorem State.failSeek_free (r : SeekRecord) (o : EndOutcome) (c : SyncCause) (s : State) : (s.failSeek r o c).free = s.free :=
  rfl
@[simp] theorem State.failSeek_pending (r : SeekRecord) (o : EndOutcome) (c : SyncCause) (s : State) : (s.failSeek r o c).pending = s.pending :=
  rfl

/-! ### State.lock -/

@[simp] theorem State.lock_qdu (r : SeekRecord) (s : State) : (s.lock r).qdu = s.qdu := rfl
@[simp] theorem State.lock_tsu (r : SeekRecord) (s : State) : (s.lock r).tsu = s.tsu := rfl
@[simp] theorem State.lock_cts (r : SeekRecord) (s : State) : (s.lock r).cts = s.cts := rfl
@[simp] theorem State.lock_bsc (r : SeekRecord) (s : State) : (s.lock r).bsc = s.bsc := rfl
@[simp] theorem State.lock_lcu (r : SeekRecord) (s : State) : (s.lock r).lcu = s.lcu := rfl
@[simp] theorem State.lock_lkp (r : SeekRecord) (s : State) : (s.lock r).lkp = s.lkp := rfl
@[simp] theorem State.lock_nrstLow (r : SeekRecord) (s : State) : (s.lock r).nrstLow = s.nrstLow := rfl
@[simp] theorem State.lock_free (r : SeekRecord) (s : State) : (s.lock r).free = s.free := rfl
@[simp] theorem State.lock_pending (r : SeekRecord) (s : State) : (s.lock r).pending = s.pending := rfl

/-! ### State.evaluate -/

@[simp] theorem State.evaluate_qdu (s : State) : (s.evaluate).qdu = s.qdu := rfl
@[simp] theorem State.evaluate_pcu (s : State) : (s.evaluate).pcu = s.pcu := rfl
@[simp] theorem State.evaluate_rft (s : State) : (s.evaluate).rft = s.rft := rfl
@[simp] theorem State.evaluate_tsu (s : State) : (s.evaluate).tsu = s.tsu := rfl
@[simp] theorem State.evaluate_cts (s : State) : (s.evaluate).cts = s.cts := rfl
@[simp] theorem State.evaluate_bsc (s : State) : (s.evaluate).bsc = s.bsc := rfl
@[simp] theorem State.evaluate_lcu (s : State) : (s.evaluate).lcu = s.lcu := rfl
@[simp] theorem State.evaluate_rsc (s : State) : (s.evaluate).rsc = s.rsc := rfl
@[simp] theorem State.evaluate_lkp (s : State) : (s.evaluate).lkp = s.lkp := rfl
@[simp] theorem State.evaluate_nrstLow (s : State) : (s.evaluate).nrstLow = s.nrstLow := rfl
@[simp] theorem State.evaluate_sample (s : State) : (s.evaluate).sample = s.sample := rfl
@[simp] theorem State.evaluate_free (s : State) : (s.evaluate).free = s.free := rfl
@[simp] theorem State.evaluate_pending (s : State) : (s.evaluate).pending = s.pending := rfl

/-! ### State.tsuStep -/

@[simp] theorem State.tsuStep_qdu (d : Dir) (s : State) : (s.tsuStep d).qdu = s.qdu := rfl
@[simp] theorem State.tsuStep_pcu (d : Dir) (s : State) : (s.tsuStep d).pcu = s.pcu := rfl
@[simp] theorem State.tsuStep_rft (d : Dir) (s : State) : (s.tsuStep d).rft = s.rft := rfl
@[simp] theorem State.tsuStep_cts (d : Dir) (s : State) : (s.tsuStep d).cts = s.cts := rfl
@[simp] theorem State.tsuStep_bsc (d : Dir) (s : State) : (s.tsuStep d).bsc = s.bsc := rfl
@[simp] theorem State.tsuStep_tev (d : Dir) (s : State) : (s.tsuStep d).tev = s.tev := rfl
@[simp] theorem State.tsuStep_lcu (d : Dir) (s : State) : (s.tsuStep d).lcu = s.lcu := rfl
@[simp] theorem State.tsuStep_lkp (d : Dir) (s : State) : (s.tsuStep d).lkp = s.lkp := rfl
@[simp] theorem State.tsuStep_nrstLow (d : Dir) (s : State) : (s.tsuStep d).nrstLow = s.nrstLow := rfl
@[simp] theorem State.tsuStep_sample (d : Dir) (s : State) : (s.tsuStep d).sample = s.sample := rfl
@[simp] theorem State.tsuStep_free (d : Dir) (s : State) : (s.tsuStep d).free = s.free := rfl
@[simp] theorem State.tsuStep_pending (d : Dir) (s : State) : (s.tsuStep d).pending = s.pending := rfl

/-! ### State.enterStall -/

@[simp] theorem State.enterStall_qdu (s : State) : (s.enterStall).qdu = s.qdu := rfl
@[simp] theorem State.enterStall_pcu (s : State) : (s.enterStall).pcu = s.pcu := rfl
@[simp] theorem State.enterStall_rft (s : State) : (s.enterStall).rft = s.rft := rfl
@[simp] theorem State.enterStall_cts (s : State) : (s.enterStall).cts = s.cts := rfl
@[simp] theorem State.enterStall_bsc (s : State) : (s.enterStall).bsc = s.bsc := rfl
@[simp] theorem State.enterStall_tev (s : State) : (s.enterStall).tev = s.tev := rfl
@[simp] theorem State.enterStall_lcu (s : State) : (s.enterStall).lcu = s.lcu := rfl
@[simp] theorem State.enterStall_lkp (s : State) : (s.enterStall).lkp = s.lkp := rfl
@[simp] theorem State.enterStall_nrstLow (s : State) : (s.enterStall).nrstLow = s.nrstLow := rfl
@[simp] theorem State.enterStall_sample (s : State) : (s.enterStall).sample = s.sample := rfl
@[simp] theorem State.enterStall_free (s : State) : (s.enterStall).free = s.free := rfl
@[simp] theorem State.enterStall_pending (s : State) : (s.enterStall).pending = s.pending := rfl

/-! ### State.decay -/

@[simp] theorem State.decay_qdu (s : State) : (s.decay).qdu = s.qdu := rfl
@[simp] theorem State.decay_pcu (s : State) : (s.decay).pcu = s.pcu := rfl
@[simp] theorem State.decay_rft (s : State) : (s.decay).rft = s.rft := rfl
@[simp] theorem State.decay_cts (s : State) : (s.decay).cts = s.cts := rfl
@[simp] theorem State.decay_bsc (s : State) : (s.decay).bsc = s.bsc := rfl
@[simp] theorem State.decay_tev (s : State) : (s.decay).tev = s.tev := rfl
@[simp] theorem State.decay_lcu (s : State) : (s.decay).lcu = s.lcu := rfl
@[simp] theorem State.decay_lkp (s : State) : (s.decay).lkp = s.lkp := rfl
@[simp] theorem State.decay_nrstLow (s : State) : (s.decay).nrstLow = s.nrstLow := rfl
@[simp] theorem State.decay_sample (s : State) : (s.decay).sample = s.sample := rfl
@[simp] theorem State.decay_free (s : State) : (s.decay).free = s.free := rfl
@[simp] theorem State.decay_pending (s : State) : (s.decay).pending = s.pending := rfl

/-! ### State.setSpeed -/

@[simp] theorem State.setSpeed_qdu (n m l : Nat) (s : State) : (s.setSpeed n m l).qdu = s.qdu := by
  unfold State.setSpeed; dsimp only; (repeat' split) <;> simp
@[simp] theorem State.setSpeed_pcu (n m l : Nat) (s : State) : (s.setSpeed n m l).pcu = s.pcu := by
  unfold State.setSpeed; dsimp only; (repeat' split) <;> simp
@[simp] theorem State.setSpeed_rft (n m l : Nat) (s : State) : (s.setSpeed n m l).rft = s.rft := by
  unfold State.setSpeed; dsimp only; (repeat' split) <;> simp
@[simp] theorem State.setSpeed_cts (n m l : Nat) (s : State) : (s.setSpeed n m l).cts = s.cts := by
  unfold State.setSpeed; dsimp only; (repeat' split) <;> simp
@[simp] theorem State.setSpeed_bsc (n m l : Nat) (s : State) : (s.setSpeed n m l).bsc = s.bsc := by
  unfold State.setSpeed; dsimp only; (repeat' split) <;> simp
@[simp] theorem State.setSpeed_tev (n m l : Nat) (s : State) : (s.setSpeed n m l).tev = s.tev := by
  unfold State.setSpeed; dsimp only; (repeat' split) <;> simp
@[simp] theorem State.setSpeed_lcu (n m l : Nat) (s : State) : (s.setSpeed n m l).lcu = s.lcu := by
  unfold State.setSpeed; dsimp only; (repeat' split) <;> simp
@[simp] theorem State.setSpeed_lkp (n m l : Nat) (s : State) : (s.setSpeed n m l).lkp = s.lkp := by
  unfold State.setSpeed; dsimp only; (repeat' split) <;> simp
@[simp] theorem State.setSpeed_nrstLow (n m l : Nat) (s : State) : (s.setSpeed n m l).nrstLow = s.nrstLow := by
  unfold State.setSpeed; dsimp only; (repeat' split) <;> simp
@[simp] theorem State.setSpeed_sample (n m l : Nat) (s : State) : (s.setSpeed n m l).sample = s.sample := by
  unfold State.setSpeed; dsimp only; (repeat' split) <;> simp
@[simp] theorem State.setSpeed_free (n m l : Nat) (s : State) : (s.setSpeed n m l).free = s.free := by
  unfold State.setSpeed; dsimp only; (repeat' split) <;> simp
@[simp] theorem State.setSpeed_pending (n m l : Nat) (s : State) : (s.setSpeed n m l).pending = s.pending := by
  unfold State.setSpeed; dsimp only; (repeat' split) <;> simp

/-! ### State.captureEdge -/

@[simp] theorem State.captureEdge_qdu (n : Fin 4) (k : EdgeKind) (v : View) (s : State) : (s.captureEdge n k v).qdu = s.qdu :=
  rfl
@[simp] theorem State.captureEdge_pcu (n : Fin 4) (k : EdgeKind) (v : View) (s : State) : (s.captureEdge n k v).pcu = s.pcu :=
  rfl
@[simp] theorem State.captureEdge_rft (n : Fin 4) (k : EdgeKind) (v : View) (s : State) : (s.captureEdge n k v).rft = s.rft :=
  rfl
@[simp] theorem State.captureEdge_tsu (n : Fin 4) (k : EdgeKind) (v : View) (s : State) : (s.captureEdge n k v).tsu = s.tsu :=
  rfl
@[simp] theorem State.captureEdge_cts (n : Fin 4) (k : EdgeKind) (v : View) (s : State) : (s.captureEdge n k v).cts = s.cts :=
  rfl
@[simp] theorem State.captureEdge_bsc (n : Fin 4) (k : EdgeKind) (v : View) (s : State) : (s.captureEdge n k v).bsc = s.bsc :=
  rfl
@[simp] theorem State.captureEdge_tev (n : Fin 4) (k : EdgeKind) (v : View) (s : State) : (s.captureEdge n k v).tev = s.tev :=
  rfl
@[simp] theorem State.captureEdge_lkp (n : Fin 4) (k : EdgeKind) (v : View) (s : State) : (s.captureEdge n k v).lkp = s.lkp :=
  rfl
@[simp] theorem State.captureEdge_nrstLow (n : Fin 4) (k : EdgeKind) (v : View) (s : State) : (s.captureEdge n k v).nrstLow = s.nrstLow :=
  rfl
@[simp] theorem State.captureEdge_sample (n : Fin 4) (k : EdgeKind) (v : View) (s : State) : (s.captureEdge n k v).sample = s.sample :=
  rfl
@[simp] theorem State.captureEdge_free (n : Fin 4) (k : EdgeKind) (v : View) (s : State) : (s.captureEdge n k v).free = s.free :=
  rfl
@[simp] theorem State.captureEdge_pending (n : Fin 4) (k : EdgeKind) (v : View) (s : State) : (s.captureEdge n k v).pending = s.pending :=
  rfl

/-! ### State.takeSettlingEnd -/

@[simp] theorem State.takeSettlingEnd_pcu (s : State) : (s.takeSettlingEnd).pcu = s.pcu := rfl
@[simp] theorem State.takeSettlingEnd_rft (s : State) : (s.takeSettlingEnd).rft = s.rft := rfl
@[simp] theorem State.takeSettlingEnd_tsu (s : State) : (s.takeSettlingEnd).tsu = s.tsu := rfl
@[simp] theorem State.takeSettlingEnd_cts (s : State) : (s.takeSettlingEnd).cts = s.cts := rfl
@[simp] theorem State.takeSettlingEnd_bsc (s : State) : (s.takeSettlingEnd).bsc = s.bsc := rfl
@[simp] theorem State.takeSettlingEnd_tev (s : State) : (s.takeSettlingEnd).tev = s.tev := rfl
@[simp] theorem State.takeSettlingEnd_lcu (s : State) : (s.takeSettlingEnd).lcu = s.lcu := rfl
@[simp] theorem State.takeSettlingEnd_rsc (s : State) : (s.takeSettlingEnd).rsc = s.rsc := rfl
@[simp] theorem State.takeSettlingEnd_lkp (s : State) : (s.takeSettlingEnd).lkp = s.lkp := rfl
@[simp] theorem State.takeSettlingEnd_nrstLow (s : State) : (s.takeSettlingEnd).nrstLow = s.nrstLow := rfl
@[simp] theorem State.takeSettlingEnd_sample (s : State) : (s.takeSettlingEnd).sample = s.sample := rfl
@[simp] theorem State.takeSettlingEnd_free (s : State) : (s.takeSettlingEnd).free = s.free := rfl
@[simp] theorem State.takeSettlingEnd_pending (s : State) : (s.takeSettlingEnd).pending = s.pending := rfl

/-! ### State.takeLatchSettlingEnd -/

@[simp] theorem State.takeLatchSettlingEnd_qdu (n : Fin 4) (s : State) : (s.takeLatchSettlingEnd n).qdu = s.qdu := rfl
@[simp] theorem State.takeLatchSettlingEnd_pcu (n : Fin 4) (s : State) : (s.takeLatchSettlingEnd n).pcu = s.pcu := rfl
@[simp] theorem State.takeLatchSettlingEnd_rft (n : Fin 4) (s : State) : (s.takeLatchSettlingEnd n).rft = s.rft := rfl
@[simp] theorem State.takeLatchSettlingEnd_tsu (n : Fin 4) (s : State) : (s.takeLatchSettlingEnd n).tsu = s.tsu := rfl
@[simp] theorem State.takeLatchSettlingEnd_cts (n : Fin 4) (s : State) : (s.takeLatchSettlingEnd n).cts = s.cts := rfl
@[simp] theorem State.takeLatchSettlingEnd_bsc (n : Fin 4) (s : State) : (s.takeLatchSettlingEnd n).bsc = s.bsc := rfl
@[simp] theorem State.takeLatchSettlingEnd_tev (n : Fin 4) (s : State) : (s.takeLatchSettlingEnd n).tev = s.tev := rfl
@[simp] theorem State.takeLatchSettlingEnd_rsc (n : Fin 4) (s : State) : (s.takeLatchSettlingEnd n).rsc = s.rsc := rfl
@[simp] theorem State.takeLatchSettlingEnd_lkp (n : Fin 4) (s : State) : (s.takeLatchSettlingEnd n).lkp = s.lkp := rfl
@[simp] theorem State.takeLatchSettlingEnd_nrstLow (n : Fin 4) (s : State) : (s.takeLatchSettlingEnd n).nrstLow = s.nrstLow :=
  rfl
@[simp] theorem State.takeLatchSettlingEnd_sample (n : Fin 4) (s : State) : (s.takeLatchSettlingEnd n).sample = s.sample :=
  rfl
@[simp] theorem State.takeLatchSettlingEnd_free (n : Fin 4) (s : State) : (s.takeLatchSettlingEnd n).free = s.free :=
  rfl
@[simp] theorem State.takeLatchSettlingEnd_pending (n : Fin 4) (s : State) : (s.takeLatchSettlingEnd n).pending = s.pending :=
  rfl

/-! ### State.takeHoldoffEnd -/

@[simp] theorem State.takeHoldoffEnd_qdu (n : Fin 4) (s : State) : (s.takeHoldoffEnd n).qdu = s.qdu := rfl
@[simp] theorem State.takeHoldoffEnd_pcu (n : Fin 4) (s : State) : (s.takeHoldoffEnd n).pcu = s.pcu := rfl
@[simp] theorem State.takeHoldoffEnd_rft (n : Fin 4) (s : State) : (s.takeHoldoffEnd n).rft = s.rft := rfl
@[simp] theorem State.takeHoldoffEnd_tsu (n : Fin 4) (s : State) : (s.takeHoldoffEnd n).tsu = s.tsu := rfl
@[simp] theorem State.takeHoldoffEnd_cts (n : Fin 4) (s : State) : (s.takeHoldoffEnd n).cts = s.cts := rfl
@[simp] theorem State.takeHoldoffEnd_bsc (n : Fin 4) (s : State) : (s.takeHoldoffEnd n).bsc = s.bsc := rfl
@[simp] theorem State.takeHoldoffEnd_tev (n : Fin 4) (s : State) : (s.takeHoldoffEnd n).tev = s.tev := rfl
@[simp] theorem State.takeHoldoffEnd_rsc (n : Fin 4) (s : State) : (s.takeHoldoffEnd n).rsc = s.rsc := rfl
@[simp] theorem State.takeHoldoffEnd_lkp (n : Fin 4) (s : State) : (s.takeHoldoffEnd n).lkp = s.lkp := rfl
@[simp] theorem State.takeHoldoffEnd_nrstLow (n : Fin 4) (s : State) : (s.takeHoldoffEnd n).nrstLow = s.nrstLow := rfl
@[simp] theorem State.takeHoldoffEnd_sample (n : Fin 4) (s : State) : (s.takeHoldoffEnd n).sample = s.sample := rfl
@[simp] theorem State.takeHoldoffEnd_free (n : Fin 4) (s : State) : (s.takeHoldoffEnd n).free = s.free := rfl
@[simp] theorem State.takeHoldoffEnd_pending (n : Fin 4) (s : State) : (s.takeHoldoffEnd n).pending = s.pending := rfl

/-! ### State.indexError -/

@[simp] theorem State.indexError_qdu (k : FaultKind) (r : RefRecord) (s : State) : (s.indexError k r).qdu = s.qdu := by
  unfold State.indexError; dsimp only; (repeat' split) <;> simp
@[simp] theorem State.indexError_pcu (k : FaultKind) (r : RefRecord) (s : State) : (s.indexError k r).pcu = s.pcu := by
  unfold State.indexError; dsimp only; (repeat' split) <;> simp
@[simp] theorem State.indexError_tsu (k : FaultKind) (r : RefRecord) (s : State) : (s.indexError k r).tsu = s.tsu := by
  unfold State.indexError; dsimp only; (repeat' split) <;> simp
@[simp] theorem State.indexError_cts (k : FaultKind) (r : RefRecord) (s : State) : (s.indexError k r).cts = s.cts := by
  unfold State.indexError; dsimp only; (repeat' split) <;> simp
@[simp] theorem State.indexError_bsc (k : FaultKind) (r : RefRecord) (s : State) : (s.indexError k r).bsc = s.bsc := by
  unfold State.indexError; dsimp only; (repeat' split) <;> simp
@[simp] theorem State.indexError_tev (k : FaultKind) (r : RefRecord) (s : State) : (s.indexError k r).tev = s.tev := by
  unfold State.indexError; dsimp only; (repeat' split) <;> simp
@[simp] theorem State.indexError_lcu (k : FaultKind) (r : RefRecord) (s : State) : (s.indexError k r).lcu = s.lcu := by
  unfold State.indexError; dsimp only; (repeat' split) <;> simp
@[simp] theorem State.indexError_lkp (k : FaultKind) (r : RefRecord) (s : State) : (s.indexError k r).lkp = s.lkp := by
  unfold State.indexError; dsimp only; (repeat' split) <;> simp
@[simp] theorem State.indexError_nrstLow (k : FaultKind) (r : RefRecord) (s : State) : (s.indexError k r).nrstLow = s.nrstLow := by
  unfold State.indexError; dsimp only; (repeat' split) <;> simp
@[simp] theorem State.indexError_free (k : FaultKind) (r : RefRecord) (s : State) : (s.indexError k r).free = s.free := by
  unfold State.indexError; dsimp only; (repeat' split) <;> simp
@[simp] theorem State.indexError_pending (k : FaultKind) (r : RefRecord) (s : State) : (s.indexError k r).pending = s.pending := by
  unfold State.indexError; dsimp only; (repeat' split) <;> simp

/-! ### State.rftStep -/

@[simp] theorem State.rftStep_qdu (s : State) : (s.rftStep).qdu = s.qdu := by
  unfold State.rftStep; (repeat' split) <;> first | rfl | simp
@[simp] theorem State.rftStep_pcu (s : State) : (s.rftStep).pcu = s.pcu := by
  unfold State.rftStep; (repeat' split) <;> first | rfl | simp
@[simp] theorem State.rftStep_tsu (s : State) : (s.rftStep).tsu = s.tsu := by
  unfold State.rftStep; (repeat' split) <;> first | rfl | simp
@[simp] theorem State.rftStep_cts (s : State) : (s.rftStep).cts = s.cts := by
  unfold State.rftStep; (repeat' split) <;> first | rfl | simp
@[simp] theorem State.rftStep_bsc (s : State) : (s.rftStep).bsc = s.bsc := by
  unfold State.rftStep; (repeat' split) <;> first | rfl | simp
@[simp] theorem State.rftStep_tev (s : State) : (s.rftStep).tev = s.tev := by
  unfold State.rftStep; (repeat' split) <;> first | rfl | simp
@[simp] theorem State.rftStep_lcu (s : State) : (s.rftStep).lcu = s.lcu := by
  unfold State.rftStep; (repeat' split) <;> first | rfl | simp
@[simp] theorem State.rftStep_lkp (s : State) : (s.rftStep).lkp = s.lkp := by
  unfold State.rftStep; (repeat' split) <;> first | rfl | simp
@[simp] theorem State.rftStep_nrstLow (s : State) : (s.rftStep).nrstLow = s.nrstLow := by
  unfold State.rftStep; (repeat' split) <;> first | rfl | simp
@[simp] theorem State.rftStep_free (s : State) : (s.rftStep).free = s.free := by
  unfold State.rftStep; (repeat' split) <;> first | rfl | simp
@[simp] theorem State.rftStep_pending (s : State) : (s.rftStep).pending = s.pending := by
  unfold State.rftStep; (repeat' split) <;> first | rfl | simp

/-! ### State.bscArriveKept -/

@[simp] theorem State.bscArriveKept_qdu (p : Option AbsPos) (s : State) : (s.bscArriveKept p).qdu = s.qdu := by
  unfold State.bscArriveKept; split <;> simp
@[simp] theorem State.bscArriveKept_pcu (p : Option AbsPos) (s : State) : (s.bscArriveKept p).pcu = s.pcu := by
  unfold State.bscArriveKept; split <;> simp
@[simp] theorem State.bscArriveKept_rft (p : Option AbsPos) (s : State) : (s.bscArriveKept p).rft = s.rft := by
  unfold State.bscArriveKept; split <;> simp
@[simp] theorem State.bscArriveKept_tsu (p : Option AbsPos) (s : State) : (s.bscArriveKept p).tsu = s.tsu := by
  unfold State.bscArriveKept; split <;> simp
@[simp] theorem State.bscArriveKept_lcu (p : Option AbsPos) (s : State) : (s.bscArriveKept p).lcu = s.lcu := by
  unfold State.bscArriveKept; split <;> simp
@[simp] theorem State.bscArriveKept_lkp (p : Option AbsPos) (s : State) : (s.bscArriveKept p).lkp = s.lkp := by
  unfold State.bscArriveKept; split <;> simp
@[simp] theorem State.bscArriveKept_nrstLow (p : Option AbsPos) (s : State) : (s.bscArriveKept p).nrstLow = s.nrstLow := by
  unfold State.bscArriveKept; split <;> simp
@[simp] theorem State.bscArriveKept_free (p : Option AbsPos) (s : State) : (s.bscArriveKept p).free = s.free := by
  unfold State.bscArriveKept; split <;> simp
@[simp] theorem State.bscArriveKept_pending (p : Option AbsPos) (s : State) : (s.bscArriveKept p).pending = s.pending := by
  unfold State.bscArriveKept; split <;> simp

/-! ### State.stepSpeed -/

@[simp] theorem State.stepSpeed_qdu (d : Dir) (s : State) : (s.stepSpeed d).qdu = s.qdu := by
  unfold State.stepSpeed; split <;> simp
@[simp] theorem State.stepSpeed_pcu (d : Dir) (s : State) : (s.stepSpeed d).pcu = s.pcu := by
  unfold State.stepSpeed; split <;> simp
@[simp] theorem State.stepSpeed_rft (d : Dir) (s : State) : (s.stepSpeed d).rft = s.rft := by
  unfold State.stepSpeed; split <;> simp
@[simp] theorem State.stepSpeed_cts (d : Dir) (s : State) : (s.stepSpeed d).cts = s.cts := by
  unfold State.stepSpeed; split <;> simp
@[simp] theorem State.stepSpeed_bsc (d : Dir) (s : State) : (s.stepSpeed d).bsc = s.bsc := by
  unfold State.stepSpeed; split <;> simp
@[simp] theorem State.stepSpeed_tev (d : Dir) (s : State) : (s.stepSpeed d).tev = s.tev := by
  unfold State.stepSpeed; split <;> simp
@[simp] theorem State.stepSpeed_lcu (d : Dir) (s : State) : (s.stepSpeed d).lcu = s.lcu := by
  unfold State.stepSpeed; split <;> simp
@[simp] theorem State.stepSpeed_lkp (d : Dir) (s : State) : (s.stepSpeed d).lkp = s.lkp := by
  unfold State.stepSpeed; split <;> simp
@[simp] theorem State.stepSpeed_nrstLow (d : Dir) (s : State) : (s.stepSpeed d).nrstLow = s.nrstLow := by
  unfold State.stepSpeed; split <;> simp
@[simp] theorem State.stepSpeed_sample (d : Dir) (s : State) : (s.stepSpeed d).sample = s.sample := by
  unfold State.stepSpeed; split <;> simp
@[simp] theorem State.stepSpeed_free (d : Dir) (s : State) : (s.stepSpeed d).free = s.free := by
  unfold State.stepSpeed; split <;> simp
@[simp] theorem State.stepSpeed_pending (d : Dir) (s : State) : (s.stepSpeed d).pending = s.pending := by
  unfold State.stepSpeed; split <;> simp

/-! ### State.applyStep -/

@[simp] theorem State.applyStep_qdu (d : Dir) (s : State) : (s.applyStep d).qdu = s.qdu := by
  unfold State.applyStep; simp
@[simp] theorem State.applyStep_rft (d : Dir) (s : State) : (s.applyStep d).rft = s.rft := by
  unfold State.applyStep; simp
@[simp] theorem State.applyStep_cts (d : Dir) (s : State) : (s.applyStep d).cts = s.cts := by
  unfold State.applyStep; simp
@[simp] theorem State.applyStep_bsc (d : Dir) (s : State) : (s.applyStep d).bsc = s.bsc := by
  unfold State.applyStep; simp
@[simp] theorem State.applyStep_tev (d : Dir) (s : State) : (s.applyStep d).tev = s.tev := by
  unfold State.applyStep; simp
@[simp] theorem State.applyStep_lcu (d : Dir) (s : State) : (s.applyStep d).lcu = s.lcu := by
  unfold State.applyStep; simp
@[simp] theorem State.applyStep_lkp (d : Dir) (s : State) : (s.applyStep d).lkp = s.lkp := by
  unfold State.applyStep; simp
@[simp] theorem State.applyStep_nrstLow (d : Dir) (s : State) : (s.applyStep d).nrstLow = s.nrstLow := by
  unfold State.applyStep; simp
@[simp] theorem State.applyStep_free (d : Dir) (s : State) : (s.applyStep d).free = s.free := by
  unfold State.applyStep; simp
@[simp] theorem State.applyStep_pending (d : Dir) (s : State) : (s.applyStep d).pending = s.pending := by
  unfold State.applyStep; simp

/-! ### State.handStep -/

@[simp] theorem State.handStep_qdu (turn : ArrivalTurn) (s : State) : (s.handStep turn).qdu = s.qdu := by
  unfold State.handStep; dsimp only; (repeat' split) <;> simp
@[simp] theorem State.handStep_pcu (turn : ArrivalTurn) (s : State) : (s.handStep turn).pcu = s.pcu := by
  unfold State.handStep; dsimp only; (repeat' split) <;> simp
@[simp] theorem State.handStep_tsu (turn : ArrivalTurn) (s : State) : (s.handStep turn).tsu = s.tsu := by
  unfold State.handStep; dsimp only; (repeat' split) <;> simp
@[simp] theorem State.handStep_lcu (turn : ArrivalTurn) (s : State) : (s.handStep turn).lcu = s.lcu := by
  unfold State.handStep; dsimp only; (repeat' split) <;> simp
@[simp] theorem State.handStep_lkp (turn : ArrivalTurn) (s : State) : (s.handStep turn).lkp = s.lkp := by
  unfold State.handStep; dsimp only; (repeat' split) <;> simp
@[simp] theorem State.handStep_nrstLow (turn : ArrivalTurn) (s : State) : (s.handStep turn).nrstLow = s.nrstLow := by
  unfold State.handStep; dsimp only; (repeat' split) <;> simp
@[simp] theorem State.handStep_free (turn : ArrivalTurn) (s : State) : (s.handStep turn).free = s.free := by
  unfold State.handStep; dsimp only; (repeat' split) <;> simp
@[simp] theorem State.handStep_pending (turn : ArrivalTurn) (s : State) : (s.handStep turn).pending = s.pending := by
  unfold State.handStep; dsimp only; (repeat' split) <;> simp

/-! ### State.takeStep -/

@[simp] theorem State.takeStep_qdu (d : Dir) (turn : ArrivalTurn) (s : State) : (s.takeStep d turn).qdu = s.qdu := by
  unfold State.takeStep; simp
@[simp] theorem State.takeStep_lcu (d : Dir) (turn : ArrivalTurn) (s : State) : (s.takeStep d turn).lcu = s.lcu := by
  unfold State.takeStep; simp
@[simp] theorem State.takeStep_lkp (d : Dir) (turn : ArrivalTurn) (s : State) : (s.takeStep d turn).lkp = s.lkp := by
  unfold State.takeStep; simp
@[simp] theorem State.takeStep_nrstLow (d : Dir) (turn : ArrivalTurn) (s : State) : (s.takeStep d turn).nrstLow = s.nrstLow := by
  unfold State.takeStep; simp
@[simp] theorem State.takeStep_free (d : Dir) (turn : ArrivalTurn) (s : State) : (s.takeStep d turn).free = s.free := by
  unfold State.takeStep; simp
@[simp] theorem State.takeStep_pending (d : Dir) (turn : ArrivalTurn) (s : State) : (s.takeStep d turn).pending = s.pending := by
  unfold State.takeStep; simp

/-! ### State.rftQuad -/

@[simp] theorem State.rftQuad_qdu (s : State) : (s.rftQuad).qdu = s.qdu := by unfold State.rftQuad; split <;> simp
@[simp] theorem State.rftQuad_pcu (s : State) : (s.rftQuad).pcu = s.pcu := by unfold State.rftQuad; split <;> simp
@[simp] theorem State.rftQuad_tsu (s : State) : (s.rftQuad).tsu = s.tsu := by unfold State.rftQuad; split <;> simp
@[simp] theorem State.rftQuad_cts (s : State) : (s.rftQuad).cts = s.cts := by unfold State.rftQuad; split <;> simp
@[simp] theorem State.rftQuad_bsc (s : State) : (s.rftQuad).bsc = s.bsc := by unfold State.rftQuad; split <;> simp
@[simp] theorem State.rftQuad_tev (s : State) : (s.rftQuad).tev = s.tev := by unfold State.rftQuad; split <;> simp
@[simp] theorem State.rftQuad_lcu (s : State) : (s.rftQuad).lcu = s.lcu := by unfold State.rftQuad; split <;> simp
@[simp] theorem State.rftQuad_lkp (s : State) : (s.rftQuad).lkp = s.lkp := by unfold State.rftQuad; split <;> simp
@[simp] theorem State.rftQuad_nrstLow (s : State) : (s.rftQuad).nrstLow = s.nrstLow := by
  unfold State.rftQuad; split <;> simp
@[simp] theorem State.rftQuad_free (s : State) : (s.rftQuad).free = s.free := by unfold State.rftQuad; split <;> simp
@[simp] theorem State.rftQuad_pending (s : State) : (s.rftQuad).pending = s.pending := by
  unfold State.rftQuad; split <;> simp

/-! ### State.countQuad -/

@[simp] theorem State.countQuad_pcu (s : State) : s.countQuad.pcu = s.pcu := by
  unfold State.countQuad; split <;> rfl
@[simp] theorem State.countQuad_rft (s : State) : s.countQuad.rft = s.rft := by
  unfold State.countQuad; split <;> rfl
@[simp] theorem State.countQuad_tsu (s : State) : s.countQuad.tsu = s.tsu := by
  unfold State.countQuad; split <;> rfl
@[simp] theorem State.countQuad_cts (s : State) : s.countQuad.cts = s.cts := by
  unfold State.countQuad; split <;> rfl
@[simp] theorem State.countQuad_bsc (s : State) : s.countQuad.bsc = s.bsc := by
  unfold State.countQuad; split <;> rfl
@[simp] theorem State.countQuad_tev (s : State) : s.countQuad.tev = s.tev := by
  unfold State.countQuad; split <;> rfl
@[simp] theorem State.countQuad_lcu (s : State) : s.countQuad.lcu = s.lcu := by
  unfold State.countQuad; split <;> rfl
@[simp] theorem State.countQuad_lkp (s : State) : s.countQuad.lkp = s.lkp := by
  unfold State.countQuad; split <;> rfl
@[simp] theorem State.countQuad_nrstLow (s : State) : s.countQuad.nrstLow = s.nrstLow := by
  unfold State.countQuad; split <;> rfl
@[simp] theorem State.countQuad_sample (s : State) : s.countQuad.sample = s.sample := by
  unfold State.countQuad; split <;> rfl
@[simp] theorem State.countQuad_free (s : State) : s.countQuad.free = s.free := by
  unfold State.countQuad; split <;> rfl
@[simp] theorem State.countQuad_pending (s : State) : s.countQuad.pending = s.pending := by
  unfold State.countQuad; split <;> rfl

/-! ### State.takeQuadError -/

@[simp] theorem State.takeQuadError_pcu (turn : LossTurn) (s : State) : (s.takeQuadError turn).pcu = s.pcu := by
  unfold State.takeQuadError State.quadWithIndex; dsimp only; (repeat' split) <;> simp
@[simp] theorem State.takeQuadError_tsu (turn : LossTurn) (s : State) : (s.takeQuadError turn).tsu = s.tsu := by
  unfold State.takeQuadError State.quadWithIndex; dsimp only; (repeat' split) <;> simp
@[simp] theorem State.takeQuadError_lcu (turn : LossTurn) (s : State) : (s.takeQuadError turn).lcu = s.lcu := by
  unfold State.takeQuadError State.quadWithIndex; dsimp only; (repeat' split) <;> simp
@[simp] theorem State.takeQuadError_lkp (turn : LossTurn) (s : State) : (s.takeQuadError turn).lkp = s.lkp := by
  unfold State.takeQuadError State.quadWithIndex; dsimp only; (repeat' split) <;> simp
@[simp] theorem State.takeQuadError_nrstLow (turn : LossTurn) (s : State) : (s.takeQuadError turn).nrstLow = s.nrstLow := by
  unfold State.takeQuadError State.quadWithIndex; dsimp only; (repeat' split) <;> simp
@[simp] theorem State.takeQuadError_free (turn : LossTurn) (s : State) : (s.takeQuadError turn).free = s.free := by
  unfold State.takeQuadError State.quadWithIndex; dsimp only; (repeat' split) <;> simp
@[simp] theorem State.takeQuadError_pending (turn : LossTurn) (s : State) : (s.takeQuadError turn).pending = s.pending := by
  unfold State.takeQuadError State.quadWithIndex; dsimp only; (repeat' split) <;> simp

/-! ### State.takeStepTurn -/

@[simp] theorem State.takeStepTurn_qdu (d : Dir) (turn : StepTurn) (s : State) : (s.takeStepTurn d turn).qdu = s.qdu := by
  cases turn <;> simp [State.takeStepTurn]
@[simp] theorem State.takeStepTurn_lcu (d : Dir) (turn : StepTurn) (s : State) : (s.takeStepTurn d turn).lcu = s.lcu := by
  cases turn <;> simp [State.takeStepTurn]
@[simp] theorem State.takeStepTurn_lkp (d : Dir) (turn : StepTurn) (s : State) : (s.takeStepTurn d turn).lkp = s.lkp := by
  cases turn <;> simp [State.takeStepTurn]
@[simp] theorem State.takeStepTurn_nrstLow (d : Dir) (turn : StepTurn) (s : State) : (s.takeStepTurn d turn).nrstLow = s.nrstLow := by
  cases turn <;> simp [State.takeStepTurn]
@[simp] theorem State.takeStepTurn_free (d : Dir) (turn : StepTurn) (s : State) : (s.takeStepTurn d turn).free = s.free := by
  cases turn <;> simp [State.takeStepTurn]
@[simp] theorem State.takeStepTurn_pending (d : Dir) (turn : StepTurn) (s : State) : (s.takeStepTurn d turn).pending = s.pending := by
  cases turn <;> simp [State.takeStepTurn]

/-! ### State.takeQuadTurn -/

@[simp] theorem State.takeQuadTurn_pcu (turn : QuadTurn) (s : State) : (s.takeQuadTurn turn).pcu = s.pcu := by
  cases turn <;> simp [State.takeQuadTurn]
@[simp] theorem State.takeQuadTurn_tsu (turn : QuadTurn) (s : State) : (s.takeQuadTurn turn).tsu = s.tsu := by
  cases turn <;> simp [State.takeQuadTurn]
@[simp] theorem State.takeQuadTurn_lcu (turn : QuadTurn) (s : State) : (s.takeQuadTurn turn).lcu = s.lcu := by
  cases turn <;> simp [State.takeQuadTurn]
@[simp] theorem State.takeQuadTurn_lkp (turn : QuadTurn) (s : State) : (s.takeQuadTurn turn).lkp = s.lkp := by
  cases turn <;> simp [State.takeQuadTurn]
@[simp] theorem State.takeQuadTurn_nrstLow (turn : QuadTurn) (s : State) : (s.takeQuadTurn turn).nrstLow = s.nrstLow := by
  cases turn <;> simp [State.takeQuadTurn]
@[simp] theorem State.takeQuadTurn_free (turn : QuadTurn) (s : State) : (s.takeQuadTurn turn).free = s.free := by
  cases turn <;> simp [State.takeQuadTurn]
@[simp] theorem State.takeQuadTurn_pending (turn : QuadTurn) (s : State) : (s.takeQuadTurn turn).pending = s.pending := by
  cases turn <;> simp [State.takeQuadTurn]

/-! ### State.indexLocked -/

@[simp] theorem State.indexLocked_qdu (r : RefRecord) (s : State) : (s.indexLocked r).qdu = s.qdu := by
  unfold State.indexLocked; dsimp only; (repeat' split) <;> simp
@[simp] theorem State.indexLocked_tsu (r : RefRecord) (s : State) : (s.indexLocked r).tsu = s.tsu := by
  unfold State.indexLocked; dsimp only; (repeat' split) <;> simp
@[simp] theorem State.indexLocked_cts (r : RefRecord) (s : State) : (s.indexLocked r).cts = s.cts := by
  unfold State.indexLocked; dsimp only; (repeat' split) <;> simp
@[simp] theorem State.indexLocked_bsc (r : RefRecord) (s : State) : (s.indexLocked r).bsc = s.bsc := by
  unfold State.indexLocked; dsimp only; (repeat' split) <;> simp
@[simp] theorem State.indexLocked_lcu (r : RefRecord) (s : State) : (s.indexLocked r).lcu = s.lcu := by
  unfold State.indexLocked; dsimp only; (repeat' split) <;> simp
@[simp] theorem State.indexLocked_lkp (r : RefRecord) (s : State) : (s.indexLocked r).lkp = s.lkp := by
  unfold State.indexLocked; dsimp only; (repeat' split) <;> simp
@[simp] theorem State.indexLocked_nrstLow (r : RefRecord) (s : State) : (s.indexLocked r).nrstLow = s.nrstLow := by
  unfold State.indexLocked; dsimp only; (repeat' split) <;> simp
@[simp] theorem State.indexLocked_free (r : RefRecord) (s : State) : (s.indexLocked r).free = s.free := by
  unfold State.indexLocked; dsimp only; (repeat' split) <;> simp
@[simp] theorem State.indexLocked_pending (r : RefRecord) (s : State) : (s.indexLocked r).pending = s.pending := by
  unfold State.indexLocked; dsimp only; (repeat' split) <;> simp

/-! ### State.rftIndex -/

@[simp] theorem State.rftIndex_qdu (s : State) : (s.rftIndex).qdu = s.qdu := by
  unfold State.rftIndex; (repeat' split) <;> first | rfl | simp
@[simp] theorem State.rftIndex_tsu (s : State) : (s.rftIndex).tsu = s.tsu := by
  unfold State.rftIndex; (repeat' split) <;> first | rfl | simp
@[simp] theorem State.rftIndex_cts (s : State) : (s.rftIndex).cts = s.cts := by
  unfold State.rftIndex; (repeat' split) <;> first | rfl | simp
@[simp] theorem State.rftIndex_bsc (s : State) : (s.rftIndex).bsc = s.bsc := by
  unfold State.rftIndex; (repeat' split) <;> first | rfl | simp
@[simp] theorem State.rftIndex_lcu (s : State) : (s.rftIndex).lcu = s.lcu := by
  unfold State.rftIndex; (repeat' split) <;> first | rfl | simp
@[simp] theorem State.rftIndex_lkp (s : State) : (s.rftIndex).lkp = s.lkp := by
  unfold State.rftIndex; (repeat' split) <;> first | rfl | simp
@[simp] theorem State.rftIndex_nrstLow (s : State) : (s.rftIndex).nrstLow = s.nrstLow := by
  unfold State.rftIndex; (repeat' split) <;> first | rfl | simp
@[simp] theorem State.rftIndex_free (s : State) : (s.rftIndex).free = s.free := by
  unfold State.rftIndex; (repeat' split) <;> first | rfl | simp
@[simp] theorem State.rftIndex_pending (s : State) : (s.rftIndex).pending = s.pending := by
  unfold State.rftIndex; (repeat' split) <;> first | rfl | simp

/-! ### State.takeIndexEvent -/

@[simp] theorem State.takeIndexEvent_qdu (turn : LossTurn) (s : State) : (s.takeIndexEvent turn).qdu = s.qdu := by
  unfold State.takeIndexEvent; split <;> simp
@[simp] theorem State.takeIndexEvent_tsu (turn : LossTurn) (s : State) : (s.takeIndexEvent turn).tsu = s.tsu := by
  unfold State.takeIndexEvent; split <;> simp
@[simp] theorem State.takeIndexEvent_lcu (turn : LossTurn) (s : State) : (s.takeIndexEvent turn).lcu = s.lcu := by
  unfold State.takeIndexEvent; split <;> simp
@[simp] theorem State.takeIndexEvent_lkp (turn : LossTurn) (s : State) : (s.takeIndexEvent turn).lkp = s.lkp := by
  unfold State.takeIndexEvent; split <;> simp
@[simp] theorem State.takeIndexEvent_nrstLow (turn : LossTurn) (s : State) : (s.takeIndexEvent turn).nrstLow = s.nrstLow := by
  unfold State.takeIndexEvent; split <;> simp
@[simp] theorem State.takeIndexEvent_free (turn : LossTurn) (s : State) : (s.takeIndexEvent turn).free = s.free := by
  unfold State.takeIndexEvent; split <;> simp
@[simp] theorem State.takeIndexEvent_pending (turn : LossTurn) (s : State) : (s.takeIndexEvent turn).pending = s.pending := by
  unfold State.takeIndexEvent; split <;> simp

/-! ### State.takeRefEdge -/

@[simp] theorem State.takeRefEdge_qdu (n : Fin 4) (s : State) : (s.takeRefEdge n).qdu = s.qdu := by
  unfold State.takeRefEdge; dsimp only; (repeat' split) <;> rfl
@[simp] theorem State.takeRefEdge_tsu (n : Fin 4) (s : State) : (s.takeRefEdge n).tsu = s.tsu := by
  unfold State.takeRefEdge; dsimp only; (repeat' split) <;> rfl
@[simp] theorem State.takeRefEdge_cts (n : Fin 4) (s : State) : (s.takeRefEdge n).cts = s.cts := by
  unfold State.takeRefEdge; dsimp only; (repeat' split) <;> rfl
@[simp] theorem State.takeRefEdge_bsc (n : Fin 4) (s : State) : (s.takeRefEdge n).bsc = s.bsc := by
  unfold State.takeRefEdge; dsimp only; (repeat' split) <;> rfl
@[simp] theorem State.takeRefEdge_lcu (n : Fin 4) (s : State) : (s.takeRefEdge n).lcu = s.lcu := by
  unfold State.takeRefEdge; dsimp only; (repeat' split) <;> rfl
@[simp] theorem State.takeRefEdge_lkp (n : Fin 4) (s : State) : (s.takeRefEdge n).lkp = s.lkp := by
  unfold State.takeRefEdge; dsimp only; (repeat' split) <;> rfl
@[simp] theorem State.takeRefEdge_nrstLow (n : Fin 4) (s : State) : (s.takeRefEdge n).nrstLow = s.nrstLow := by
  unfold State.takeRefEdge; dsimp only; (repeat' split) <;> rfl
@[simp] theorem State.takeRefEdge_free (n : Fin 4) (s : State) : (s.takeRefEdge n).free = s.free := by
  unfold State.takeRefEdge; dsimp only; (repeat' split) <;> rfl
@[simp] theorem State.takeRefEdge_pending (n : Fin 4) (s : State) : (s.takeRefEdge n).pending = s.pending := by
  unfold State.takeRefEdge; dsimp only; (repeat' split) <;> rfl

/-! ### State.takeLcuEdge -/

@[simp] theorem State.takeLcuEdge_qdu (n : Fin 4) (back : Nat) (s : State) : (s.takeLcuEdge n back).qdu = s.qdu := by
  unfold State.takeLcuEdge; split <;> rfl
@[simp] theorem State.takeLcuEdge_tsu (n : Fin 4) (back : Nat) (s : State) : (s.takeLcuEdge n back).tsu = s.tsu := by
  unfold State.takeLcuEdge; split <;> rfl
@[simp] theorem State.takeLcuEdge_cts (n : Fin 4) (back : Nat) (s : State) : (s.takeLcuEdge n back).cts = s.cts := by
  unfold State.takeLcuEdge; split <;> rfl
@[simp] theorem State.takeLcuEdge_bsc (n : Fin 4) (back : Nat) (s : State) : (s.takeLcuEdge n back).bsc = s.bsc := by
  unfold State.takeLcuEdge; split <;> rfl
@[simp] theorem State.takeLcuEdge_lkp (n : Fin 4) (back : Nat) (s : State) : (s.takeLcuEdge n back).lkp = s.lkp := by
  unfold State.takeLcuEdge; split <;> rfl
@[simp] theorem State.takeLcuEdge_nrstLow (n : Fin 4) (back : Nat) (s : State) : (s.takeLcuEdge n back).nrstLow = s.nrstLow := by
  unfold State.takeLcuEdge; split <;> rfl
@[simp] theorem State.takeLcuEdge_free (n : Fin 4) (back : Nat) (s : State) : (s.takeLcuEdge n back).free = s.free := by
  unfold State.takeLcuEdge; split <;> rfl
@[simp] theorem State.takeLcuEdge_pending (n : Fin 4) (back : Nat) (s : State) : (s.takeLcuEdge n back).pending = s.pending := by
  unfold State.takeLcuEdge; split <;> rfl

/-! ### State.takeLatchEdge -/

@[simp] theorem State.takeLatchEdge_qdu (n : Fin 4) (turn : EdgeTurn) (s : State) : (s.takeLatchEdge n turn).qdu = s.qdu := by
  unfold State.takeLatchEdge; cases turn <;> simp
@[simp] theorem State.takeLatchEdge_tsu (n : Fin 4) (turn : EdgeTurn) (s : State) : (s.takeLatchEdge n turn).tsu = s.tsu := by
  unfold State.takeLatchEdge; cases turn <;> simp
@[simp] theorem State.takeLatchEdge_cts (n : Fin 4) (turn : EdgeTurn) (s : State) : (s.takeLatchEdge n turn).cts = s.cts := by
  unfold State.takeLatchEdge; cases turn <;> simp
@[simp] theorem State.takeLatchEdge_bsc (n : Fin 4) (turn : EdgeTurn) (s : State) : (s.takeLatchEdge n turn).bsc = s.bsc := by
  unfold State.takeLatchEdge; cases turn <;> simp
@[simp] theorem State.takeLatchEdge_lkp (n : Fin 4) (turn : EdgeTurn) (s : State) : (s.takeLatchEdge n turn).lkp = s.lkp := by
  unfold State.takeLatchEdge; cases turn <;> simp
@[simp] theorem State.takeLatchEdge_nrstLow (n : Fin 4) (turn : EdgeTurn) (s : State) : (s.takeLatchEdge n turn).nrstLow = s.nrstLow := by
  unfold State.takeLatchEdge; cases turn <;> simp
@[simp] theorem State.takeLatchEdge_free (n : Fin 4) (turn : EdgeTurn) (s : State) : (s.takeLatchEdge n turn).free = s.free := by
  unfold State.takeLatchEdge; cases turn <;> simp
@[simp] theorem State.takeLatchEdge_pending (n : Fin 4) (turn : EdgeTurn) (s : State) : (s.takeLatchEdge n turn).pending = s.pending := by
  unfold State.takeLatchEdge; cases turn <;> simp

/-! ### State.takeTimer -/

@[simp] theorem State.takeTimer_qdu (back : Nat) (s : State) : (s.takeTimer back).qdu = s.qdu := rfl
@[simp] theorem State.takeTimer_pcu (back : Nat) (s : State) : (s.takeTimer back).pcu = s.pcu := rfl
@[simp] theorem State.takeTimer_rft (back : Nat) (s : State) : (s.takeTimer back).rft = s.rft := rfl
@[simp] theorem State.takeTimer_tsu (back : Nat) (s : State) : (s.takeTimer back).tsu = s.tsu := rfl
@[simp] theorem State.takeTimer_cts (back : Nat) (s : State) : (s.takeTimer back).cts = s.cts := rfl
@[simp] theorem State.takeTimer_bsc (back : Nat) (s : State) : (s.takeTimer back).bsc = s.bsc := rfl
@[simp] theorem State.takeTimer_tev (back : Nat) (s : State) : (s.takeTimer back).tev = s.tev := rfl
@[simp] theorem State.takeTimer_lcu (back : Nat) (s : State) : (s.takeTimer back).lcu = s.lcu := rfl
@[simp] theorem State.takeTimer_lkp (back : Nat) (s : State) : (s.takeTimer back).lkp = s.lkp := rfl
@[simp] theorem State.takeTimer_nrstLow (back : Nat) (s : State) : (s.takeTimer back).nrstLow = s.nrstLow := rfl
@[simp] theorem State.takeTimer_sample (back : Nat) (s : State) : (s.takeTimer back).sample = s.sample := rfl
@[simp] theorem State.takeTimer_free (back : Nat) (s : State) : (s.takeTimer back).free = s.free := rfl
@[simp] theorem State.takeTimer_pending (back : Nat) (s : State) : (s.takeTimer back).pending = s.pending := rfl

/-! ### State.endSample -/

@[simp] theorem State.endSample_qdu (s : State) : (s.endSample).qdu = s.qdu := rfl
@[simp] theorem State.endSample_pcu (s : State) : (s.endSample).pcu = s.pcu := rfl
@[simp] theorem State.endSample_rft (s : State) : (s.endSample).rft = s.rft := rfl
@[simp] theorem State.endSample_tsu (s : State) : (s.endSample).tsu = s.tsu := rfl
@[simp] theorem State.endSample_cts (s : State) : (s.endSample).cts = s.cts := rfl
@[simp] theorem State.endSample_bsc (s : State) : (s.endSample).bsc = s.bsc := rfl
@[simp] theorem State.endSample_lcu (s : State) : (s.endSample).lcu = s.lcu := rfl
@[simp] theorem State.endSample_rsc (s : State) : (s.endSample).rsc = s.rsc := rfl
@[simp] theorem State.endSample_lkp (s : State) : (s.endSample).lkp = s.lkp := rfl
@[simp] theorem State.endSample_nrstLow (s : State) : (s.endSample).nrstLow = s.nrstLow := rfl
@[simp] theorem State.endSample_free (s : State) : (s.endSample).free = s.free := rfl
@[simp] theorem State.endSample_pending (s : State) : (s.endSample).pending = s.pending := rfl

/-! ### State.settle -/

@[simp] theorem State.settle_qdu (s : State) : (s.settle).qdu = s.qdu := by unfold State.settle; split <;> simp
@[simp] theorem State.settle_pcu (s : State) : (s.settle).pcu = s.pcu := by unfold State.settle; split <;> simp
@[simp] theorem State.settle_rft (s : State) : (s.settle).rft = s.rft := by unfold State.settle; split <;> simp
@[simp] theorem State.settle_tsu (s : State) : (s.settle).tsu = s.tsu := by unfold State.settle; split <;> simp
@[simp] theorem State.settle_cts (s : State) : (s.settle).cts = s.cts := by unfold State.settle; split <;> simp
@[simp] theorem State.settle_bsc (s : State) : (s.settle).bsc = s.bsc := by unfold State.settle; split <;> simp
@[simp] theorem State.settle_lcu (s : State) : (s.settle).lcu = s.lcu := by unfold State.settle; split <;> simp
@[simp] theorem State.settle_rsc (s : State) : (s.settle).rsc = s.rsc := by unfold State.settle; split <;> simp
@[simp] theorem State.settle_lkp (s : State) : (s.settle).lkp = s.lkp := by unfold State.settle; split <;> simp
@[simp] theorem State.settle_nrstLow (s : State) : (s.settle).nrstLow = s.nrstLow := by
  unfold State.settle; split <;> simp
@[simp] theorem State.settle_free (s : State) : (s.settle).free = s.free := by unfold State.settle; split <;> simp
@[simp] theorem State.settle_pending (s : State) : (s.settle).pending = s.pending := by
  unfold State.settle; split <;> simp

/-! ### State.takeEvent -/

@[simp] theorem State.takeEvent_lkp (e : FieldEvent) (s : State) : (s.takeEvent e).lkp = s.lkp := by
  unfold State.takeEvent; (repeat' split) <;> first | rfl | simp
@[simp] theorem State.takeEvent_nrstLow (e : FieldEvent) (s : State) : (s.takeEvent e).nrstLow = s.nrstLow := by
  unfold State.takeEvent; (repeat' split) <;> first | rfl | simp
@[simp] theorem State.takeEvent_pending (e : FieldEvent) (s : State) : (s.takeEvent e).pending = s.pending := by
  unfold State.takeEvent; (repeat' split) <;> first | rfl | simp

/-! ### State.drainBy -/

@[simp] theorem State.drainBy_lkp (f : State → Option FieldEvent) (n : Nat) (s : State) : (State.drainBy f n s).lkp = s.lkp := by
  induction n generalizing s with
  | zero => rfl
  | succ n ih =>
    unfold State.drainBy; split
    · rw [ih]; simp
    · rfl
@[simp] theorem State.drainBy_nrstLow (f : State → Option FieldEvent) (n : Nat) (s : State) : (State.drainBy f n s).nrstLow = s.nrstLow := by
  induction n generalizing s with
  | zero => rfl
  | succ n ih =>
    unfold State.drainBy; split
    · rw [ih]; simp
    · rfl
@[simp] theorem State.drainBy_pending (f : State → Option FieldEvent) (n : Nat) (s : State) : (State.drainBy f n s).pending = s.pending := by
  induction n generalizing s with
  | zero => rfl
  | succ n ih =>
    unfold State.drainBy; split
    · rw [ih]; simp
    · rfl

/-! ### State.drain -/

@[simp] theorem State.drain_lkp (n : Nat) (s : State) : (State.drain n s).lkp = s.lkp := by unfold State.drain; simp
@[simp] theorem State.drain_nrstLow (n : Nat) (s : State) : (State.drain n s).nrstLow = s.nrstLow := by
  unfold State.drain; simp
@[simp] theorem State.drain_pending (n : Nat) (s : State) : (State.drain n s).pending = s.pending := by
  unfold State.drain; simp

/-! ### State.catchUp -/

@[simp] theorem State.catchUp_lkp (s : State) : (s.catchUp).lkp = s.lkp := by unfold State.catchUp; split <;> simp
@[simp] theorem State.catchUp_nrstLow (s : State) : (s.catchUp).nrstLow = s.nrstLow := by
  unfold State.catchUp; split <;> simp
@[simp] theorem State.catchUp_pending (s : State) : (s.catchUp).pending = s.pending := by
  unfold State.catchUp; split <;> simp

/-! ### State.pairSpeed -/

@[simp] theorem State.pairSpeed_lkp (s : State) : s.pairSpeed.lkp = s.lkp := by unfold State.pairSpeed; split <;> simp
@[simp] theorem State.pairSpeed_nrstLow (s : State) : s.pairSpeed.nrstLow = s.nrstLow := by
  unfold State.pairSpeed; split <;> simp
@[simp] theorem State.pairSpeed_pending (s : State) : s.pairSpeed.pending = s.pending := by
  unfold State.pairSpeed; split <;> simp

/-! ### State.closeSample -/

@[simp] theorem State.closeSample_lkp (s : State) : (s.closeSample).lkp = s.lkp := by
  unfold State.closeSample; split <;> simp
@[simp] theorem State.closeSample_nrstLow (s : State) : (s.closeSample).nrstLow = s.nrstLow := by
  unfold State.closeSample; split <;> simp
@[simp] theorem State.closeSample_pending (s : State) : (s.closeSample).pending = s.pending := by
  unfold State.closeSample; split <;> simp

/-! ### State.sampleInputs -/

@[simp] theorem State.sampleInputs_pcu (lv : Levels) (s : State) : (s.sampleInputs lv).pcu = s.pcu := rfl
@[simp] theorem State.sampleInputs_rft (lv : Levels) (s : State) : (s.sampleInputs lv).rft = s.rft := rfl
@[simp] theorem State.sampleInputs_cts (lv : Levels) (s : State) : (s.sampleInputs lv).cts = s.cts := rfl
@[simp] theorem State.sampleInputs_bsc (lv : Levels) (s : State) : (s.sampleInputs lv).bsc = s.bsc := rfl
@[simp] theorem State.sampleInputs_tev (lv : Levels) (s : State) : (s.sampleInputs lv).tev = s.tev := rfl
@[simp] theorem State.sampleInputs_lkp (lv : Levels) (s : State) : (s.sampleInputs lv).lkp = s.lkp := rfl
@[simp] theorem State.sampleInputs_nrstLow (lv : Levels) (s : State) : (s.sampleInputs lv).nrstLow = s.nrstLow := rfl
@[simp] theorem State.sampleInputs_pending (lv : Levels) (s : State) : (s.sampleInputs lv).pending = s.pending := rfl

/-! ### State.takeSample -/

@[simp] theorem State.takeSample_lkp (lv : Levels) (s : State) : (s.takeSample lv).lkp = s.lkp := by
  unfold State.takeSample; simp
@[simp] theorem State.takeSample_nrstLow (lv : Levels) (s : State) : (s.takeSample lv).nrstLow = s.nrstLow := by
  unfold State.takeSample; simp
@[simp] theorem State.takeSample_pending (lv : Levels) (s : State) : (s.takeSample lv).pending = s.pending := by
  unfold State.takeSample; simp

/-! ### State.handOverKind -/

@[simp] theorem State.handOverKind_qdu (k : ReportKind) (s : State) : (s.handOverKind k).qdu = s.qdu := rfl
@[simp] theorem State.handOverKind_pcu (k : ReportKind) (s : State) : (s.handOverKind k).pcu = s.pcu := rfl
@[simp] theorem State.handOverKind_rft (k : ReportKind) (s : State) : (s.handOverKind k).rft = s.rft := rfl
@[simp] theorem State.handOverKind_tsu (k : ReportKind) (s : State) : (s.handOverKind k).tsu = s.tsu := rfl
@[simp] theorem State.handOverKind_cts (k : ReportKind) (s : State) : (s.handOverKind k).cts = s.cts := rfl
@[simp] theorem State.handOverKind_bsc (k : ReportKind) (s : State) : (s.handOverKind k).bsc = s.bsc := rfl
@[simp] theorem State.handOverKind_tev (k : ReportKind) (s : State) : (s.handOverKind k).tev = s.tev := rfl
@[simp] theorem State.handOverKind_nrstLow (k : ReportKind) (s : State) : (s.handOverKind k).nrstLow = s.nrstLow := rfl
@[simp] theorem State.handOverKind_sample (k : ReportKind) (s : State) : (s.handOverKind k).sample = s.sample := rfl
@[simp] theorem State.handOverKind_free (k : ReportKind) (s : State) : (s.handOverKind k).free = s.free := rfl
@[simp] theorem State.handOverKind_pending (k : ReportKind) (s : State) : (s.handOverKind k).pending = s.pending := rfl

/-! ### State.takeReports -/

@[simp] theorem State.takeReports_qdu (s : State) : s.takeReports.qdu = s.qdu := rfl
@[simp] theorem State.takeReports_pcu (s : State) : s.takeReports.pcu = s.pcu := rfl
@[simp] theorem State.takeReports_rft (s : State) : s.takeReports.rft = s.rft := rfl
@[simp] theorem State.takeReports_tsu (s : State) : s.takeReports.tsu = s.tsu := rfl
@[simp] theorem State.takeReports_cts (s : State) : s.takeReports.cts = s.cts := rfl
@[simp] theorem State.takeReports_bsc (s : State) : s.takeReports.bsc = s.bsc := rfl
@[simp] theorem State.takeReports_tev (s : State) : s.takeReports.tev = s.tev := rfl
@[simp] theorem State.takeReports_lcu (s : State) : s.takeReports.lcu = s.lcu := rfl
@[simp] theorem State.takeReports_lkp (s : State) : s.takeReports.lkp = s.lkp := rfl
@[simp] theorem State.takeReports_nrstLow (s : State) : s.takeReports.nrstLow = s.nrstLow := rfl
@[simp] theorem State.takeReports_sample (s : State) : s.takeReports.sample = s.sample := rfl
@[simp] theorem State.takeReports_free (s : State) : s.takeReports.free = s.free := rfl
@[simp] theorem State.takeReports_pending (s : State) : s.takeReports.pending = s.pending := rfl

/-! ### State.beforeHandOver -/

@[simp] theorem State.beforeHandOver_qdu (k : ReportKind) (s : State) : (s.beforeHandOver k).qdu = s.qdu := rfl
@[simp] theorem State.beforeHandOver_pcu (k : ReportKind) (s : State) : (s.beforeHandOver k).pcu = s.pcu := rfl
@[simp] theorem State.beforeHandOver_rft (k : ReportKind) (s : State) : (s.beforeHandOver k).rft = s.rft := rfl
@[simp] theorem State.beforeHandOver_tsu (k : ReportKind) (s : State) : (s.beforeHandOver k).tsu = s.tsu := rfl
@[simp] theorem State.beforeHandOver_cts (k : ReportKind) (s : State) : (s.beforeHandOver k).cts = s.cts := rfl
@[simp] theorem State.beforeHandOver_bsc (k : ReportKind) (s : State) : (s.beforeHandOver k).bsc = s.bsc := rfl
@[simp] theorem State.beforeHandOver_tev (k : ReportKind) (s : State) : (s.beforeHandOver k).tev = s.tev := rfl
@[simp] theorem State.beforeHandOver_lcu (k : ReportKind) (s : State) : (s.beforeHandOver k).lcu = s.lcu := rfl
@[simp] theorem State.beforeHandOver_lkp (k : ReportKind) (s : State) : (s.beforeHandOver k).lkp = s.lkp := rfl
@[simp] theorem State.beforeHandOver_nrstLow (k : ReportKind) (s : State) : (s.beforeHandOver k).nrstLow = s.nrstLow := rfl
@[simp] theorem State.beforeHandOver_sample_inputs (k : ReportKind) (s : State) : (s.beforeHandOver k).sample.inputs = s.sample.inputs := rfl
@[simp] theorem State.beforeHandOver_sample_inSample (k : ReportKind) (s : State) : (s.beforeHandOver k).sample.inSample = s.sample.inSample := rfl
@[simp] theorem State.beforeHandOver_sample_ab (k : ReportKind) (s : State) : (s.beforeHandOver k).sample.ab = s.sample.ab := rfl
@[simp] theorem State.beforeHandOver_sample_z (k : ReportKind) (s : State) : (s.beforeHandOver k).sample.z = s.sample.z := rfl
@[simp] theorem State.beforeHandOver_sample_edges (k : ReportKind) (s : State) : (s.beforeHandOver k).sample.edges = s.sample.edges := rfl
@[simp] theorem State.beforeHandOver_sample_refEdges (k : ReportKind) (s : State) : (s.beforeHandOver k).sample.refEdges = s.sample.refEdges := rfl
@[simp] theorem State.beforeHandOver_sample_arrival (k : ReportKind) (s : State) : (s.beforeHandOver k).sample.arrival = s.sample.arrival := rfl
@[simp] theorem State.beforeHandOver_pending (k : ReportKind) (s : State) : (s.beforeHandOver k).pending = s.pending := rfl

/-! ### State.orderFor -/

@[simp] theorem State.orderFor_qdu (k : ReportKind) (s : State) : (s.orderFor k).qdu = s.qdu := rfl
@[simp] theorem State.orderFor_pcu (k : ReportKind) (s : State) : (s.orderFor k).pcu = s.pcu := rfl
@[simp] theorem State.orderFor_rft (k : ReportKind) (s : State) : (s.orderFor k).rft = s.rft := rfl
@[simp] theorem State.orderFor_tsu (k : ReportKind) (s : State) : (s.orderFor k).tsu = s.tsu := rfl
@[simp] theorem State.orderFor_cts (k : ReportKind) (s : State) : (s.orderFor k).cts = s.cts := rfl
@[simp] theorem State.orderFor_bsc (k : ReportKind) (s : State) : (s.orderFor k).bsc = s.bsc := rfl
@[simp] theorem State.orderFor_tev (k : ReportKind) (s : State) : (s.orderFor k).tev = s.tev := rfl
@[simp] theorem State.orderFor_lcu (k : ReportKind) (s : State) : (s.orderFor k).lcu = s.lcu := rfl
@[simp] theorem State.orderFor_lkp (k : ReportKind) (s : State) : (s.orderFor k).lkp = s.lkp := rfl
@[simp] theorem State.orderFor_nrstLow (k : ReportKind) (s : State) : (s.orderFor k).nrstLow = s.nrstLow := rfl
@[simp] theorem State.orderFor_free (k : ReportKind) (s : State) : (s.orderFor k).free = s.free := rfl
@[simp] theorem State.orderFor_pending (k : ReportKind) (s : State) : (s.orderFor k).pending = s.pending := rfl
@[simp] theorem State.orderFor_sample (k : ReportKind) (s : State) : (s.orderFor k).sample = s.sample := rfl

/-! ### State.grantLine -/

@[simp] theorem State.grantLine_qdu (s : State) : (s.grantLine).qdu = s.qdu := by
  unfold State.grantLine; (repeat' split) <;> rfl
@[simp] theorem State.grantLine_pcu (s : State) : (s.grantLine).pcu = s.pcu := by
  unfold State.grantLine; (repeat' split) <;> rfl
@[simp] theorem State.grantLine_rft (s : State) : (s.grantLine).rft = s.rft := by
  unfold State.grantLine; (repeat' split) <;> rfl
@[simp] theorem State.grantLine_tsu (s : State) : (s.grantLine).tsu = s.tsu := by
  unfold State.grantLine; (repeat' split) <;> rfl
@[simp] theorem State.grantLine_cts (s : State) : (s.grantLine).cts = s.cts := by
  unfold State.grantLine; (repeat' split) <;> rfl
@[simp] theorem State.grantLine_bsc (s : State) : (s.grantLine).bsc = s.bsc := by
  unfold State.grantLine; (repeat' split) <;> rfl
@[simp] theorem State.grantLine_tev (s : State) : (s.grantLine).tev = s.tev := by
  unfold State.grantLine; (repeat' split) <;> rfl
@[simp] theorem State.grantLine_nrstLow (s : State) : (s.grantLine).nrstLow = s.nrstLow := by
  unfold State.grantLine; (repeat' split) <;> rfl
@[simp] theorem State.grantLine_sample_inputs (s : State) : (s.grantLine).sample.inputs = s.sample.inputs := by
  unfold State.grantLine; (repeat' split) <;> rfl
@[simp] theorem State.grantLine_sample_inSample (s : State) : (s.grantLine).sample.inSample = s.sample.inSample := by
  unfold State.grantLine; (repeat' split) <;> rfl
@[simp] theorem State.grantLine_sample_ab (s : State) : (s.grantLine).sample.ab = s.sample.ab := by
  unfold State.grantLine; (repeat' split) <;> rfl
@[simp] theorem State.grantLine_sample_z (s : State) : (s.grantLine).sample.z = s.sample.z := by
  unfold State.grantLine; (repeat' split) <;> rfl
@[simp] theorem State.grantLine_sample_edges (s : State) : (s.grantLine).sample.edges = s.sample.edges := by
  unfold State.grantLine; (repeat' split) <;> rfl
@[simp] theorem State.grantLine_sample_refEdges (s : State) : (s.grantLine).sample.refEdges = s.sample.refEdges := by
  unfold State.grantLine; (repeat' split) <;> rfl
@[simp] theorem State.grantLine_sample_arrival (s : State) : (s.grantLine).sample.arrival = s.sample.arrival := by
  unfold State.grantLine; (repeat' split) <;> rfl
@[simp] theorem State.grantLine_pending (s : State) : (s.grantLine).pending = s.pending := by
  unfold State.grantLine; (repeat' split) <;> rfl

/-! ### State.reply -/

@[simp] theorem State.reply_qdu (r : Request) (a : Answer) (s : State) : (s.reply r a).qdu = s.qdu := rfl
@[simp] theorem State.reply_pcu (r : Request) (a : Answer) (s : State) : (s.reply r a).pcu = s.pcu := rfl
@[simp] theorem State.reply_rft (r : Request) (a : Answer) (s : State) : (s.reply r a).rft = s.rft := rfl
@[simp] theorem State.reply_tsu (r : Request) (a : Answer) (s : State) : (s.reply r a).tsu = s.tsu := rfl
@[simp] theorem State.reply_cts (r : Request) (a : Answer) (s : State) : (s.reply r a).cts = s.cts := rfl
@[simp] theorem State.reply_bsc (r : Request) (a : Answer) (s : State) : (s.reply r a).bsc = s.bsc := rfl
@[simp] theorem State.reply_tev (r : Request) (a : Answer) (s : State) : (s.reply r a).tev = s.tev := rfl
@[simp] theorem State.reply_lcu (r : Request) (a : Answer) (s : State) : (s.reply r a).lcu = s.lcu := rfl
@[simp] theorem State.reply_rsc (r : Request) (a : Answer) (s : State) : (s.reply r a).rsc = s.rsc := rfl
@[simp] theorem State.reply_nrstLow (r : Request) (a : Answer) (s : State) : (s.reply r a).nrstLow = s.nrstLow := rfl
@[simp] theorem State.reply_sample_inputs (r : Request) (a : Answer) (s : State) : (s.reply r a).sample.inputs = s.sample.inputs := rfl
@[simp] theorem State.reply_sample_inSample (r : Request) (a : Answer) (s : State) : (s.reply r a).sample.inSample = s.sample.inSample := rfl
@[simp] theorem State.reply_sample_ab (r : Request) (a : Answer) (s : State) : (s.reply r a).sample.ab = s.sample.ab := rfl
@[simp] theorem State.reply_sample_z (r : Request) (a : Answer) (s : State) : (s.reply r a).sample.z = s.sample.z := rfl
@[simp] theorem State.reply_sample_edges (r : Request) (a : Answer) (s : State) : (s.reply r a).sample.edges = s.sample.edges := rfl
@[simp] theorem State.reply_sample_refEdges (r : Request) (a : Answer) (s : State) : (s.reply r a).sample.refEdges = s.sample.refEdges := rfl
@[simp] theorem State.reply_sample_arrival (r : Request) (a : Answer) (s : State) : (s.reply r a).sample.arrival = s.sample.arrival := rfl
@[simp] theorem State.reply_free (r : Request) (a : Answer) (s : State) : (s.reply r a).free = s.free := rfl
@[simp] theorem State.reply_pending (r : Request) (a : Answer) (s : State) : (s.reply r a).pending = s.pending := rfl

/-! ### State.takeRequest -/

@[simp] theorem State.takeRequest_qdu (rest : List Request) (s : State) : (s.takeRequest rest).qdu = s.qdu := rfl
@[simp] theorem State.takeRequest_pcu (rest : List Request) (s : State) : (s.takeRequest rest).pcu = s.pcu := rfl
@[simp] theorem State.takeRequest_rft (rest : List Request) (s : State) : (s.takeRequest rest).rft = s.rft := rfl
@[simp] theorem State.takeRequest_tsu (rest : List Request) (s : State) : (s.takeRequest rest).tsu = s.tsu := rfl
@[simp] theorem State.takeRequest_cts (rest : List Request) (s : State) : (s.takeRequest rest).cts = s.cts := rfl
@[simp] theorem State.takeRequest_bsc (rest : List Request) (s : State) : (s.takeRequest rest).bsc = s.bsc := rfl
@[simp] theorem State.takeRequest_tev (rest : List Request) (s : State) : (s.takeRequest rest).tev = s.tev := rfl
@[simp] theorem State.takeRequest_lcu (rest : List Request) (s : State) : (s.takeRequest rest).lcu = s.lcu := rfl
@[simp] theorem State.takeRequest_rsc (rest : List Request) (s : State) : (s.takeRequest rest).rsc = s.rsc := rfl
@[simp] theorem State.takeRequest_nrstLow (rest : List Request) (s : State) : (s.takeRequest rest).nrstLow = s.nrstLow :=
  rfl
@[simp] theorem State.takeRequest_sample (rest : List Request) (s : State) : (s.takeRequest rest).sample = s.sample :=
  rfl
@[simp] theorem State.takeRequest_free (rest : List Request) (s : State) : (s.takeRequest rest).free = s.free := rfl
@[simp] theorem State.takeRequest_pending (rest : List Request) (s : State) : (s.takeRequest rest).pending = s.pending :=
  rfl

/-! ### State.receive -/

@[simp] theorem State.receive_qdu (e : ByteEvent) (s : State) : (s.receive e).qdu = s.qdu := rfl
@[simp] theorem State.receive_pcu (e : ByteEvent) (s : State) : (s.receive e).pcu = s.pcu := rfl
@[simp] theorem State.receive_rft (e : ByteEvent) (s : State) : (s.receive e).rft = s.rft := rfl
@[simp] theorem State.receive_tsu (e : ByteEvent) (s : State) : (s.receive e).tsu = s.tsu := rfl
@[simp] theorem State.receive_cts (e : ByteEvent) (s : State) : (s.receive e).cts = s.cts := rfl
@[simp] theorem State.receive_bsc (e : ByteEvent) (s : State) : (s.receive e).bsc = s.bsc := rfl
@[simp] theorem State.receive_tev (e : ByteEvent) (s : State) : (s.receive e).tev = s.tev := rfl
@[simp] theorem State.receive_lcu (e : ByteEvent) (s : State) : (s.receive e).lcu = s.lcu := rfl
@[simp] theorem State.receive_rsc (e : ByteEvent) (s : State) : (s.receive e).rsc = s.rsc := rfl
@[simp] theorem State.receive_nrstLow (e : ByteEvent) (s : State) : (s.receive e).nrstLow = s.nrstLow := rfl
@[simp] theorem State.receive_sample (e : ByteEvent) (s : State) : (s.receive e).sample = s.sample := rfl
@[simp] theorem State.receive_free (e : ByteEvent) (s : State) : (s.receive e).free = s.free := rfl
@[simp] theorem State.receive_pending (e : ByteEvent) (s : State) : (s.receive e).pending = s.pending := rfl

/-! ### State.endStartupIdle -/

@[simp] theorem State.endStartupIdle_qdu (s : State) : (s.endStartupIdle).qdu = s.qdu := by
  unfold State.endStartupIdle; split <;> simp
@[simp] theorem State.endStartupIdle_pcu (s : State) : (s.endStartupIdle).pcu = s.pcu := by
  unfold State.endStartupIdle; split <;> simp
@[simp] theorem State.endStartupIdle_rft (s : State) : (s.endStartupIdle).rft = s.rft := by
  unfold State.endStartupIdle; split <;> simp
@[simp] theorem State.endStartupIdle_tsu (s : State) : (s.endStartupIdle).tsu = s.tsu := by
  unfold State.endStartupIdle; split <;> simp
@[simp] theorem State.endStartupIdle_cts (s : State) : (s.endStartupIdle).cts = s.cts := by
  unfold State.endStartupIdle; split <;> simp
@[simp] theorem State.endStartupIdle_bsc (s : State) : (s.endStartupIdle).bsc = s.bsc := by
  unfold State.endStartupIdle; split <;> simp
@[simp] theorem State.endStartupIdle_tev (s : State) : (s.endStartupIdle).tev = s.tev := by
  unfold State.endStartupIdle; split <;> simp
@[simp] theorem State.endStartupIdle_nrstLow (s : State) : (s.endStartupIdle).nrstLow = s.nrstLow := by
  unfold State.endStartupIdle; split <;> simp
@[simp] theorem State.endStartupIdle_sample_inputs (s : State) : (s.endStartupIdle).sample.inputs = s.sample.inputs := by
  unfold State.endStartupIdle; split <;> simp
@[simp] theorem State.endStartupIdle_sample_inSample (s : State) : (s.endStartupIdle).sample.inSample = s.sample.inSample := by
  unfold State.endStartupIdle; split <;> simp
@[simp] theorem State.endStartupIdle_sample_ab (s : State) : (s.endStartupIdle).sample.ab = s.sample.ab := by
  unfold State.endStartupIdle; split <;> simp
@[simp] theorem State.endStartupIdle_sample_z (s : State) : (s.endStartupIdle).sample.z = s.sample.z := by
  unfold State.endStartupIdle; split <;> simp
@[simp] theorem State.endStartupIdle_sample_edges (s : State) : (s.endStartupIdle).sample.edges = s.sample.edges := by
  unfold State.endStartupIdle; split <;> simp
@[simp] theorem State.endStartupIdle_sample_refEdges (s : State) : (s.endStartupIdle).sample.refEdges = s.sample.refEdges := by
  unfold State.endStartupIdle; split <;> simp
@[simp] theorem State.endStartupIdle_sample_arrival (s : State) : (s.endStartupIdle).sample.arrival = s.sample.arrival := by
  unfold State.endStartupIdle; split <;> simp
@[simp] theorem State.endStartupIdle_pending (s : State) : (s.endStartupIdle).pending = s.pending := by
  unfold State.endStartupIdle; split <;> simp

/-! ### State.resetTo -/

@[simp] theorem State.resetTo_free (c : ResetCause) (n : Word16) (b : BitVec 2) (s : State) : (s.resetTo c n b).free = s.free :=
  rfl
@[simp] theorem State.resetTo_pending (c : ResetCause) (n : Word16) (b : BitVec 2) (s : State) : (s.resetTo c n b).pending = s.pending :=
  rfl

/-! ### State.setAxis -/

@[simp] theorem State.setAxis_qdu (a : AxisConfig) (s : State) : (s.setAxis a).qdu = s.qdu := rfl
@[simp] theorem State.setAxis_rft (a : AxisConfig) (s : State) : (s.setAxis a).rft = s.rft := rfl
@[simp] theorem State.setAxis_tsu (a : AxisConfig) (s : State) : (s.setAxis a).tsu = s.tsu := rfl
@[simp] theorem State.setAxis_cts (a : AxisConfig) (s : State) : (s.setAxis a).cts = s.cts := rfl
@[simp] theorem State.setAxis_bsc (a : AxisConfig) (s : State) : (s.setAxis a).bsc = s.bsc := rfl
@[simp] theorem State.setAxis_lcu (a : AxisConfig) (s : State) : (s.setAxis a).lcu = s.lcu := rfl
@[simp] theorem State.setAxis_rsc (a : AxisConfig) (s : State) : (s.setAxis a).rsc = s.rsc := rfl
@[simp] theorem State.setAxis_lkp (a : AxisConfig) (s : State) : (s.setAxis a).lkp = s.lkp := rfl
@[simp] theorem State.setAxis_nrstLow (a : AxisConfig) (s : State) : (s.setAxis a).nrstLow = s.nrstLow := rfl
@[simp] theorem State.setAxis_free (a : AxisConfig) (s : State) : (s.setAxis a).free = s.free := rfl
@[simp] theorem State.setAxis_pending (a : AxisConfig) (s : State) : (s.setAxis a).pending = s.pending := rfl

/-! ### State.startSeek -/

@[simp] theorem State.startSeek_qdu (src : Source) (p : List Byte) (s : State) : (s.startSeek src p).qdu = s.qdu := rfl
@[simp] theorem State.startSeek_pcu (src : Source) (p : List Byte) (s : State) : (s.startSeek src p).pcu = s.pcu := rfl
@[simp] theorem State.startSeek_tsu (src : Source) (p : List Byte) (s : State) : (s.startSeek src p).tsu = s.tsu := rfl
@[simp] theorem State.startSeek_cts (src : Source) (p : List Byte) (s : State) : (s.startSeek src p).cts = s.cts := rfl
@[simp] theorem State.startSeek_tev (src : Source) (p : List Byte) (s : State) : (s.startSeek src p).tev = s.tev := rfl
@[simp] theorem State.startSeek_lcu (src : Source) (p : List Byte) (s : State) : (s.startSeek src p).lcu = s.lcu := rfl
@[simp] theorem State.startSeek_lkp (src : Source) (p : List Byte) (s : State) : (s.startSeek src p).lkp = s.lkp := rfl
@[simp] theorem State.startSeek_nrstLow (src : Source) (p : List Byte) (s : State) : (s.startSeek src p).nrstLow = s.nrstLow :=
  rfl
@[simp] theorem State.startSeek_pending (src : Source) (p : List Byte) (s : State) : (s.startSeek src p).pending = s.pending :=
  rfl

/-! ### State.editShadow -/

@[simp] theorem State.editShadow_qdu (t : Fin 8) (tab : TrackTable) (n : Nat) (s : State) : (s.editShadow t tab n).qdu = s.qdu :=
  rfl
@[simp] theorem State.editShadow_pcu (t : Fin 8) (tab : TrackTable) (n : Nat) (s : State) : (s.editShadow t tab n).pcu = s.pcu :=
  rfl
@[simp] theorem State.editShadow_rft (t : Fin 8) (tab : TrackTable) (n : Nat) (s : State) : (s.editShadow t tab n).rft = s.rft :=
  rfl
@[simp] theorem State.editShadow_tsu (t : Fin 8) (tab : TrackTable) (n : Nat) (s : State) : (s.editShadow t tab n).tsu = s.tsu :=
  rfl
@[simp] theorem State.editShadow_bsc (t : Fin 8) (tab : TrackTable) (n : Nat) (s : State) : (s.editShadow t tab n).bsc = s.bsc :=
  rfl
@[simp] theorem State.editShadow_tev (t : Fin 8) (tab : TrackTable) (n : Nat) (s : State) : (s.editShadow t tab n).tev = s.tev :=
  rfl
@[simp] theorem State.editShadow_lcu (t : Fin 8) (tab : TrackTable) (n : Nat) (s : State) : (s.editShadow t tab n).lcu = s.lcu :=
  rfl
@[simp] theorem State.editShadow_rsc (t : Fin 8) (tab : TrackTable) (n : Nat) (s : State) : (s.editShadow t tab n).rsc = s.rsc :=
  rfl
@[simp] theorem State.editShadow_lkp (t : Fin 8) (tab : TrackTable) (n : Nat) (s : State) : (s.editShadow t tab n).lkp = s.lkp :=
  rfl
@[simp] theorem State.editShadow_nrstLow (t : Fin 8) (tab : TrackTable) (n : Nat) (s : State) : (s.editShadow t tab n).nrstLow = s.nrstLow :=
  rfl
@[simp] theorem State.editShadow_sample (t : Fin 8) (tab : TrackTable) (n : Nat) (s : State) : (s.editShadow t tab n).sample = s.sample :=
  rfl
@[simp] theorem State.editShadow_free (t : Fin 8) (tab : TrackTable) (n : Nat) (s : State) : (s.editShadow t tab n).free = s.free :=
  rfl
@[simp] theorem State.editShadow_pending (t : Fin 8) (tab : TrackTable) (n : Nat) (s : State) : (s.editShadow t tab n).pending = s.pending :=
  rfl

/-! ### State.addWindow -/

@[simp] theorem State.addWindow_qdu (t : Fin 8) (w : Window) (s : State) : (s.addWindow t w).qdu = s.qdu := rfl
@[simp] theorem State.addWindow_pcu (t : Fin 8) (w : Window) (s : State) : (s.addWindow t w).pcu = s.pcu := rfl
@[simp] theorem State.addWindow_rft (t : Fin 8) (w : Window) (s : State) : (s.addWindow t w).rft = s.rft := rfl
@[simp] theorem State.addWindow_tsu (t : Fin 8) (w : Window) (s : State) : (s.addWindow t w).tsu = s.tsu := rfl
@[simp] theorem State.addWindow_bsc (t : Fin 8) (w : Window) (s : State) : (s.addWindow t w).bsc = s.bsc := rfl
@[simp] theorem State.addWindow_tev (t : Fin 8) (w : Window) (s : State) : (s.addWindow t w).tev = s.tev := rfl
@[simp] theorem State.addWindow_lcu (t : Fin 8) (w : Window) (s : State) : (s.addWindow t w).lcu = s.lcu := rfl
@[simp] theorem State.addWindow_rsc (t : Fin 8) (w : Window) (s : State) : (s.addWindow t w).rsc = s.rsc := rfl
@[simp] theorem State.addWindow_lkp (t : Fin 8) (w : Window) (s : State) : (s.addWindow t w).lkp = s.lkp := rfl
@[simp] theorem State.addWindow_nrstLow (t : Fin 8) (w : Window) (s : State) : (s.addWindow t w).nrstLow = s.nrstLow :=
  rfl
@[simp] theorem State.addWindow_sample (t : Fin 8) (w : Window) (s : State) : (s.addWindow t w).sample = s.sample := rfl
@[simp] theorem State.addWindow_free (t : Fin 8) (w : Window) (s : State) : (s.addWindow t w).free = s.free := rfl
@[simp] theorem State.addWindow_pending (t : Fin 8) (w : Window) (s : State) : (s.addWindow t w).pending = s.pending :=
  rfl

/-! ### State.removeWindow -/

@[simp] theorem State.removeWindow_qdu (t : Fin 8) (i : Nat) (s : State) : (s.removeWindow t i).qdu = s.qdu := rfl
@[simp] theorem State.removeWindow_pcu (t : Fin 8) (i : Nat) (s : State) : (s.removeWindow t i).pcu = s.pcu := rfl
@[simp] theorem State.removeWindow_rft (t : Fin 8) (i : Nat) (s : State) : (s.removeWindow t i).rft = s.rft := rfl
@[simp] theorem State.removeWindow_tsu (t : Fin 8) (i : Nat) (s : State) : (s.removeWindow t i).tsu = s.tsu := rfl
@[simp] theorem State.removeWindow_bsc (t : Fin 8) (i : Nat) (s : State) : (s.removeWindow t i).bsc = s.bsc := rfl
@[simp] theorem State.removeWindow_tev (t : Fin 8) (i : Nat) (s : State) : (s.removeWindow t i).tev = s.tev := rfl
@[simp] theorem State.removeWindow_lcu (t : Fin 8) (i : Nat) (s : State) : (s.removeWindow t i).lcu = s.lcu := rfl
@[simp] theorem State.removeWindow_rsc (t : Fin 8) (i : Nat) (s : State) : (s.removeWindow t i).rsc = s.rsc := rfl
@[simp] theorem State.removeWindow_lkp (t : Fin 8) (i : Nat) (s : State) : (s.removeWindow t i).lkp = s.lkp := rfl
@[simp] theorem State.removeWindow_nrstLow (t : Fin 8) (i : Nat) (s : State) : (s.removeWindow t i).nrstLow = s.nrstLow :=
  rfl
@[simp] theorem State.removeWindow_sample (t : Fin 8) (i : Nat) (s : State) : (s.removeWindow t i).sample = s.sample :=
  rfl
@[simp] theorem State.removeWindow_free (t : Fin 8) (i : Nat) (s : State) : (s.removeWindow t i).free = s.free := rfl
@[simp] theorem State.removeWindow_pending (t : Fin 8) (i : Nat) (s : State) : (s.removeWindow t i).pending = s.pending :=
  rfl

/-! ### State.clearTrack -/

@[simp] theorem State.clearTrack_qdu (t : Fin 8) (s : State) : (s.clearTrack t).qdu = s.qdu := rfl
@[simp] theorem State.clearTrack_pcu (t : Fin 8) (s : State) : (s.clearTrack t).pcu = s.pcu := rfl
@[simp] theorem State.clearTrack_rft (t : Fin 8) (s : State) : (s.clearTrack t).rft = s.rft := rfl
@[simp] theorem State.clearTrack_tsu (t : Fin 8) (s : State) : (s.clearTrack t).tsu = s.tsu := rfl
@[simp] theorem State.clearTrack_bsc (t : Fin 8) (s : State) : (s.clearTrack t).bsc = s.bsc := rfl
@[simp] theorem State.clearTrack_tev (t : Fin 8) (s : State) : (s.clearTrack t).tev = s.tev := rfl
@[simp] theorem State.clearTrack_lcu (t : Fin 8) (s : State) : (s.clearTrack t).lcu = s.lcu := rfl
@[simp] theorem State.clearTrack_rsc (t : Fin 8) (s : State) : (s.clearTrack t).rsc = s.rsc := rfl
@[simp] theorem State.clearTrack_lkp (t : Fin 8) (s : State) : (s.clearTrack t).lkp = s.lkp := rfl
@[simp] theorem State.clearTrack_nrstLow (t : Fin 8) (s : State) : (s.clearTrack t).nrstLow = s.nrstLow := rfl
@[simp] theorem State.clearTrack_sample (t : Fin 8) (s : State) : (s.clearTrack t).sample = s.sample := rfl
@[simp] theorem State.clearTrack_free (t : Fin 8) (s : State) : (s.clearTrack t).free = s.free := rfl
@[simp] theorem State.clearTrack_pending (t : Fin 8) (s : State) : (s.clearTrack t).pending = s.pending := rfl

/-! ### State.setParams -/

@[simp] theorem State.setParams_qdu (t : Fin 8) (l h : Nat) (s : State) : (s.setParams t l h).qdu = s.qdu := rfl
@[simp] theorem State.setParams_pcu (t : Fin 8) (l h : Nat) (s : State) : (s.setParams t l h).pcu = s.pcu := rfl
@[simp] theorem State.setParams_rft (t : Fin 8) (l h : Nat) (s : State) : (s.setParams t l h).rft = s.rft := rfl
@[simp] theorem State.setParams_tsu (t : Fin 8) (l h : Nat) (s : State) : (s.setParams t l h).tsu = s.tsu := rfl
@[simp] theorem State.setParams_bsc (t : Fin 8) (l h : Nat) (s : State) : (s.setParams t l h).bsc = s.bsc := rfl
@[simp] theorem State.setParams_tev (t : Fin 8) (l h : Nat) (s : State) : (s.setParams t l h).tev = s.tev := rfl
@[simp] theorem State.setParams_lcu (t : Fin 8) (l h : Nat) (s : State) : (s.setParams t l h).lcu = s.lcu := rfl
@[simp] theorem State.setParams_rsc (t : Fin 8) (l h : Nat) (s : State) : (s.setParams t l h).rsc = s.rsc := rfl
@[simp] theorem State.setParams_lkp (t : Fin 8) (l h : Nat) (s : State) : (s.setParams t l h).lkp = s.lkp := rfl
@[simp] theorem State.setParams_nrstLow (t : Fin 8) (l h : Nat) (s : State) : (s.setParams t l h).nrstLow = s.nrstLow :=
  rfl
@[simp] theorem State.setParams_sample (t : Fin 8) (l h : Nat) (s : State) : (s.setParams t l h).sample = s.sample :=
  rfl
@[simp] theorem State.setParams_free (t : Fin 8) (l h : Nat) (s : State) : (s.setParams t l h).free = s.free := rfl
@[simp] theorem State.setParams_pending (t : Fin 8) (l h : Nat) (s : State) : (s.setParams t l h).pending = s.pending :=
  rfl

/-! ### State.revertShadow -/

@[simp] theorem State.revertShadow_qdu (s : State) : (s.revertShadow).qdu = s.qdu := rfl
@[simp] theorem State.revertShadow_pcu (s : State) : (s.revertShadow).pcu = s.pcu := rfl
@[simp] theorem State.revertShadow_rft (s : State) : (s.revertShadow).rft = s.rft := rfl
@[simp] theorem State.revertShadow_tsu (s : State) : (s.revertShadow).tsu = s.tsu := rfl
@[simp] theorem State.revertShadow_bsc (s : State) : (s.revertShadow).bsc = s.bsc := rfl
@[simp] theorem State.revertShadow_tev (s : State) : (s.revertShadow).tev = s.tev := rfl
@[simp] theorem State.revertShadow_lcu (s : State) : (s.revertShadow).lcu = s.lcu := rfl
@[simp] theorem State.revertShadow_rsc (s : State) : (s.revertShadow).rsc = s.rsc := rfl
@[simp] theorem State.revertShadow_lkp (s : State) : (s.revertShadow).lkp = s.lkp := rfl
@[simp] theorem State.revertShadow_nrstLow (s : State) : (s.revertShadow).nrstLow = s.nrstLow := rfl
@[simp] theorem State.revertShadow_sample (s : State) : (s.revertShadow).sample = s.sample := rfl
@[simp] theorem State.revertShadow_free (s : State) : (s.revertShadow).free = s.free := rfl
@[simp] theorem State.revertShadow_pending (s : State) : (s.revertShadow).pending = s.pending := rfl

/-! ### State.startCommit -/

@[simp] theorem State.startCommit_qdu (p : CommitPolicy) (s : State) : (s.startCommit p).qdu = s.qdu := rfl
@[simp] theorem State.startCommit_pcu (p : CommitPolicy) (s : State) : (s.startCommit p).pcu = s.pcu := rfl
@[simp] theorem State.startCommit_rft (p : CommitPolicy) (s : State) : (s.startCommit p).rft = s.rft := rfl
@[simp] theorem State.startCommit_tsu (p : CommitPolicy) (s : State) : (s.startCommit p).tsu = s.tsu := rfl
@[simp] theorem State.startCommit_cts (p : CommitPolicy) (s : State) : (s.startCommit p).cts = s.cts := rfl
@[simp] theorem State.startCommit_tev (p : CommitPolicy) (s : State) : (s.startCommit p).tev = s.tev := rfl
@[simp] theorem State.startCommit_lcu (p : CommitPolicy) (s : State) : (s.startCommit p).lcu = s.lcu := rfl
@[simp] theorem State.startCommit_lkp (p : CommitPolicy) (s : State) : (s.startCommit p).lkp = s.lkp := rfl
@[simp] theorem State.startCommit_nrstLow (p : CommitPolicy) (s : State) : (s.startCommit p).nrstLow = s.nrstLow := rfl
@[simp] theorem State.startCommit_free (p : CommitPolicy) (s : State) : (s.startCommit p).free = s.free := rfl
@[simp] theorem State.startCommit_pending (p : CommitPolicy) (s : State) : (s.startCommit p).pending = s.pending := rfl

/-! ### State.cancelCommit -/

@[simp] theorem State.cancelCommit_qdu (c : Commit) (s : State) : (s.cancelCommit c).qdu = s.qdu := rfl
@[simp] theorem State.cancelCommit_pcu (c : Commit) (s : State) : (s.cancelCommit c).pcu = s.pcu := rfl
@[simp] theorem State.cancelCommit_rft (c : Commit) (s : State) : (s.cancelCommit c).rft = s.rft := rfl
@[simp] theorem State.cancelCommit_tsu (c : Commit) (s : State) : (s.cancelCommit c).tsu = s.tsu := rfl
@[simp] theorem State.cancelCommit_cts (c : Commit) (s : State) : (s.cancelCommit c).cts = s.cts := rfl
@[simp] theorem State.cancelCommit_tev (c : Commit) (s : State) : (s.cancelCommit c).tev = s.tev := rfl
@[simp] theorem State.cancelCommit_lcu (c : Commit) (s : State) : (s.cancelCommit c).lcu = s.lcu := rfl
@[simp] theorem State.cancelCommit_lkp (c : Commit) (s : State) : (s.cancelCommit c).lkp = s.lkp := rfl
@[simp] theorem State.cancelCommit_nrstLow (c : Commit) (s : State) : (s.cancelCommit c).nrstLow = s.nrstLow := rfl
@[simp] theorem State.cancelCommit_sample (c : Commit) (s : State) : (s.cancelCommit c).sample = s.sample := rfl
@[simp] theorem State.cancelCommit_free (c : Commit) (s : State) : (s.cancelCommit c).free = s.free := rfl
@[simp] theorem State.cancelCommit_pending (c : Commit) (s : State) : (s.cancelCommit c).pending = s.pending := rfl

/-! ### State.setMode -/

@[simp] theorem State.setMode_qdu (t : Fin 8) (m : TrackMode) (f : SafeLevel) (p : Polarity) (b : Bool) (s : State) : (s.setMode t m f p b).qdu = s.qdu :=
  rfl
@[simp] theorem State.setMode_pcu (t : Fin 8) (m : TrackMode) (f : SafeLevel) (p : Polarity) (b : Bool) (s : State) : (s.setMode t m f p b).pcu = s.pcu :=
  rfl
@[simp] theorem State.setMode_rft (t : Fin 8) (m : TrackMode) (f : SafeLevel) (p : Polarity) (b : Bool) (s : State) : (s.setMode t m f p b).rft = s.rft :=
  rfl
@[simp] theorem State.setMode_tsu (t : Fin 8) (m : TrackMode) (f : SafeLevel) (p : Polarity) (b : Bool) (s : State) : (s.setMode t m f p b).tsu = s.tsu :=
  rfl
@[simp] theorem State.setMode_cts (t : Fin 8) (m : TrackMode) (f : SafeLevel) (p : Polarity) (b : Bool) (s : State) : (s.setMode t m f p b).cts = s.cts :=
  rfl
@[simp] theorem State.setMode_bsc (t : Fin 8) (m : TrackMode) (f : SafeLevel) (p : Polarity) (b : Bool) (s : State) : (s.setMode t m f p b).bsc = s.bsc :=
  rfl
@[simp] theorem State.setMode_lcu (t : Fin 8) (m : TrackMode) (f : SafeLevel) (p : Polarity) (b : Bool) (s : State) : (s.setMode t m f p b).lcu = s.lcu :=
  rfl
@[simp] theorem State.setMode_rsc (t : Fin 8) (m : TrackMode) (f : SafeLevel) (p : Polarity) (b : Bool) (s : State) : (s.setMode t m f p b).rsc = s.rsc :=
  rfl
@[simp] theorem State.setMode_lkp (t : Fin 8) (m : TrackMode) (f : SafeLevel) (p : Polarity) (b : Bool) (s : State) : (s.setMode t m f p b).lkp = s.lkp :=
  rfl
@[simp] theorem State.setMode_nrstLow (t : Fin 8) (m : TrackMode) (f : SafeLevel) (p : Polarity) (b : Bool) (s : State) : (s.setMode t m f p b).nrstLow = s.nrstLow :=
  rfl
@[simp] theorem State.setMode_sample (t : Fin 8) (m : TrackMode) (f : SafeLevel) (p : Polarity) (b : Bool) (s : State) : (s.setMode t m f p b).sample = s.sample :=
  rfl
@[simp] theorem State.setMode_free (t : Fin 8) (m : TrackMode) (f : SafeLevel) (p : Polarity) (b : Bool) (s : State) : (s.setMode t m f p b).free = s.free :=
  rfl
@[simp] theorem State.setMode_pending (t : Fin 8) (m : TrackMode) (f : SafeLevel) (p : Polarity) (b : Bool) (s : State) : (s.setMode t m f p b).pending = s.pending :=
  rfl

/-! ### State.setLatch -/

@[simp] theorem State.setLatch_qdu (n : Fin 4) (l : Latch) (s : State) : (s.setLatch n l).qdu = s.qdu := rfl
@[simp] theorem State.setLatch_pcu (n : Fin 4) (l : Latch) (s : State) : (s.setLatch n l).pcu = s.pcu := rfl
@[simp] theorem State.setLatch_rft (n : Fin 4) (l : Latch) (s : State) : (s.setLatch n l).rft = s.rft := rfl
@[simp] theorem State.setLatch_tsu (n : Fin 4) (l : Latch) (s : State) : (s.setLatch n l).tsu = s.tsu := rfl
@[simp] theorem State.setLatch_cts (n : Fin 4) (l : Latch) (s : State) : (s.setLatch n l).cts = s.cts := rfl
@[simp] theorem State.setLatch_bsc (n : Fin 4) (l : Latch) (s : State) : (s.setLatch n l).bsc = s.bsc := rfl
@[simp] theorem State.setLatch_tev (n : Fin 4) (l : Latch) (s : State) : (s.setLatch n l).tev = s.tev := rfl
@[simp] theorem State.setLatch_rsc (n : Fin 4) (l : Latch) (s : State) : (s.setLatch n l).rsc = s.rsc := rfl
@[simp] theorem State.setLatch_lkp (n : Fin 4) (l : Latch) (s : State) : (s.setLatch n l).lkp = s.lkp := rfl
@[simp] theorem State.setLatch_nrstLow (n : Fin 4) (l : Latch) (s : State) : (s.setLatch n l).nrstLow = s.nrstLow := rfl
@[simp] theorem State.setLatch_sample (n : Fin 4) (l : Latch) (s : State) : (s.setLatch n l).sample = s.sample := rfl
@[simp] theorem State.setLatch_free (n : Fin 4) (l : Latch) (s : State) : (s.setLatch n l).free = s.free := rfl
@[simp] theorem State.setLatch_pending (n : Fin 4) (l : Latch) (s : State) : (s.setLatch n l).pending = s.pending := rfl

/-! ### Fields that an operation sets -/

@[simp] theorem State.jump_pcu (p : AbsPos) (s : State) : (s.jump p).pcu = { s.pcu with pos := p } := rfl
@[simp] theorem State.jump_tev (p : AbsPos) (s : State) : (s.jump p).tev = s.tev.clearMemories := rfl
@[simp] theorem State.swap_cts (s : State) : s.swap.cts = s.cts.swap := rfl
@[simp] theorem State.swap_tev (s : State) : s.swap.tev = s.tev.clearMemories := rfl
@[simp] theorem State.endSwapped_cts (c : Commit) (p : AbsPos) (s : State) : (s.endSwapped c p).cts = s.cts.swap := rfl
@[simp] theorem State.endSwapped_commit (c : Commit) (p : AbsPos) (s : State) : (s.endSwapped c p).bsc.commit = none :=
  rfl
@[simp] theorem State.changeSync_sync (n : Sync) (c : SyncCause) (s : State) : (s.changeSync n c).rft.sync = n := rfl
@[simp] theorem State.changeSync_cause (n : Sync) (c : SyncCause) (s : State) : (s.changeSync n c).rft.cause = c := rfl
@[simp] theorem State.failSeek_sync (r : SeekRecord) (o : EndOutcome) (c : SyncCause) (s : State) : (s.failSeek r o c).rft.sync = .free :=
  rfl
@[simp] theorem State.lock_pos (r : SeekRecord) (s : State) : (s.lock r).pcu.pos = { rev := 0, angle := r.refValue } :=
  rfl
@[simp] theorem State.lock_sync (r : SeekRecord) (s : State) : (s.lock r).rft.sync = .locked (r.lockRecord s.tsu.timebase) :=
  rfl
@[simp] theorem State.applyStep_pos (d : Dir) (s : State) : (s.applyStep d).pcu.pos = s.pcu.pos.step s.pcu.axis.cpr d :=
  rfl
@[simp] theorem State.applyStep_dir (d : Dir) (s : State) : (s.applyStep d).pcu.dir = d := rfl
@[simp] theorem State.applyStep_axis (d : Dir) (s : State) : (s.applyStep d).pcu.axis = s.pcu.axis := rfl
theorem State.stepSpeed_tsu (d : Dir) (s : State) :
    (s.stepSpeed d).tsu = if s.sample.ahead then s.tsu else s.tsu.step d := by
  unfold State.stepSpeed; split <;> rfl
theorem State.applyStep_tsu (d : Dir) (s : State) :
    (s.applyStep d).tsu = if s.sample.ahead then s.tsu else s.tsu.step d := State.stepSpeed_tsu d s
@[simp] theorem State.enterStall_tsu (s : State) : s.enterStall.tsu = s.tsu.stall := rfl
@[simp] theorem State.decay_tsu (s : State) : s.decay.tsu = s.tsu.present s.tsu.decayed := rfl
@[simp] theorem State.sampleInputs_tsu (lv : Levels) (s : State) : (s.sampleInputs lv).tsu = s.tsu.tick := rfl
@[simp] theorem State.takeRequest_lkp (rest : List Request) (s : State) : (s.takeRequest rest).lkp = { s.lkp with inbound := rest } :=
  rfl
@[simp] theorem State.receive_lkp (e : ByteEvent) (s : State) : (s.receive e).lkp = s.lkp.receive e := rfl
@[simp] theorem State.setAxis_axis (a : AxisConfig) (s : State) : (s.setAxis a).pcu.axis = a := rfl
@[simp] theorem State.setAxis_pos (a : AxisConfig) (s : State) : (s.setAxis a).pcu.pos = { rev := 0, angle := 0 } := rfl
@[simp] theorem State.editShadow_cts (t : Fin 8) (tab : TrackTable) (n : Nat) (s : State) : (s.editShadow t tab n).cts = s.cts.edit t tab n :=
  rfl

end Sys2Proof.Machine
end

