-- ==== Sys2Proof/Laws/Fields.lean ====
section
/-! SUPPORT. The frame of every operation inside a block: one lemma for each field of a block that an operation on the
block, or on the state, leaves alone. -/

namespace Sys2Proof.Machine

/-! ### Rsc.receive -/

@[simp] theorem Rsc.receive_enable (es : List RscEvent) (r : Rsc) : (r.receive es).enable = r.enable := rfl
@[simp] theorem Rsc.receive_intervalMs (es : List RscEvent) (r : Rsc) : (r.receive es).intervalMs = r.intervalMs := rfl
@[simp] theorem Rsc.receive_timer (es : List RscEvent) (r : Rsc) : (r.receive es).timer = r.timer := rfl
@[simp] theorem Rsc.receive_hello (es : List RscEvent) (r : Rsc) : (r.receive es).hello = r.hello := rfl
@[simp] theorem Rsc.receive_sync (es : List RscEvent) (r : Rsc) : (r.receive es).sync = r.sync := rfl
@[simp] theorem Rsc.receive_fault (es : List RscEvent) (r : Rsc) : (r.receive es).fault = r.fault := rfl
@[simp] theorem Rsc.receive_motion (es : List RscEvent) (r : Rsc) : (r.receive es).motion = r.motion := rfl
@[simp] theorem Rsc.receive_position (es : List RscEvent) (r : Rsc) : (r.receive es).position = r.position := rfl
@[simp] theorem Rsc.receive_inFlight (es : List RscEvent) (r : Rsc) : (r.receive es).inFlight = r.inFlight := rfl
@[simp] theorem Rsc.receive_waiting (es : List RscEvent) (r : Rsc) : (r.receive es).waiting = r.waiting := rfl
@[simp] theorem Rsc.receive_credit (es : List RscEvent) (r : Rsc) : (r.receive es).credit = r.credit := rfl
@[simp] theorem Rsc.receive_seq (es : List RscEvent) (r : Rsc) : (r.receive es).seq = r.seq := rfl
@[simp] theorem Rsc.receive_recent (es : List RscEvent) (r : Rsc) : (r.receive es).recent = r.recent := rfl

/-! ### Rsc.fold -/

@[simp] theorem Rsc.fold_enable (e : RscEvent) (r : Rsc) : (r.fold e).enable = r.enable := by cases e <;> rfl
@[simp] theorem Rsc.fold_intervalMs (e : RscEvent) (r : Rsc) : (r.fold e).intervalMs = r.intervalMs := by cases e <;> rfl
@[simp] theorem Rsc.fold_timer (e : RscEvent) (r : Rsc) : (r.fold e).timer = r.timer := by cases e <;> rfl
@[simp] theorem Rsc.fold_hello (e : RscEvent) (r : Rsc) : (r.fold e).hello = r.hello := by cases e <;> rfl
@[simp] theorem Rsc.fold_sync (e : RscEvent) (r : Rsc) : (r.fold e).sync = r.sync := by cases e <;> rfl
@[simp] theorem Rsc.fold_position (e : RscEvent) (r : Rsc) : (r.fold e).position = r.position := by cases e <;> rfl
@[simp] theorem Rsc.fold_fresh (e : RscEvent) (r : Rsc) : (r.fold e).fresh = r.fresh := by cases e <;> rfl
@[simp] theorem Rsc.fold_inFlight (e : RscEvent) (r : Rsc) : (r.fold e).inFlight = r.inFlight := by cases e <;> rfl
@[simp] theorem Rsc.fold_waiting (e : RscEvent) (r : Rsc) : (r.fold e).waiting = r.waiting := by cases e <;> rfl
@[simp] theorem Rsc.fold_credit (e : RscEvent) (r : Rsc) : (r.fold e).credit = r.credit := by cases e <;> rfl
@[simp] theorem Rsc.fold_seq (e : RscEvent) (r : Rsc) : (r.fold e).seq = r.seq := by cases e <;> rfl
@[simp] theorem Rsc.fold_recent (e : RscEvent) (r : Rsc) : (r.fold e).recent = r.recent := by cases e <;> rfl

/-! ### Rsc.foldAll -/

@[simp] theorem Rsc.foldAll_enable (es : List RscEvent) (r : Rsc) : (es.foldl Rsc.fold r).enable = r.enable := by
  induction es generalizing r with
  | nil => rfl
  | cons e es ih => exact (ih _).trans (Rsc.fold_enable e r)
@[simp] theorem Rsc.foldAll_intervalMs (es : List RscEvent) (r : Rsc) : (es.foldl Rsc.fold r).intervalMs = r.intervalMs := by
  induction es generalizing r with
  | nil => rfl
  | cons e es ih => exact (ih _).trans (Rsc.fold_intervalMs e r)
@[simp] theorem Rsc.foldAll_timer (es : List RscEvent) (r : Rsc) : (es.foldl Rsc.fold r).timer = r.timer := by
  induction es generalizing r with
  | nil => rfl
  | cons e es ih => exact (ih _).trans (Rsc.fold_timer e r)
@[simp] theorem Rsc.foldAll_hello (es : List RscEvent) (r : Rsc) : (es.foldl Rsc.fold r).hello = r.hello := by
  induction es generalizing r with
  | nil => rfl
  | cons e es ih => exact (ih _).trans (Rsc.fold_hello e r)
@[simp] theorem Rsc.foldAll_sync (es : List RscEvent) (r : Rsc) : (es.foldl Rsc.fold r).sync = r.sync := by
  induction es generalizing r with
  | nil => rfl
  | cons e es ih => exact (ih _).trans (Rsc.fold_sync e r)
@[simp] theorem Rsc.foldAll_position (es : List RscEvent) (r : Rsc) : (es.foldl Rsc.fold r).position = r.position := by
  induction es generalizing r with
  | nil => rfl
  | cons e es ih => exact (ih _).trans (Rsc.fold_position e r)
@[simp] theorem Rsc.foldAll_fresh (es : List RscEvent) (r : Rsc) : (es.foldl Rsc.fold r).fresh = r.fresh := by
  induction es generalizing r with
  | nil => rfl
  | cons e es ih => exact (ih _).trans (Rsc.fold_fresh e r)
@[simp] theorem Rsc.foldAll_inFlight (es : List RscEvent) (r : Rsc) : (es.foldl Rsc.fold r).inFlight = r.inFlight := by
  induction es generalizing r with
  | nil => rfl
  | cons e es ih => exact (ih _).trans (Rsc.fold_inFlight e r)
@[simp] theorem Rsc.foldAll_waiting (es : List RscEvent) (r : Rsc) : (es.foldl Rsc.fold r).waiting = r.waiting := by
  induction es generalizing r with
  | nil => rfl
  | cons e es ih => exact (ih _).trans (Rsc.fold_waiting e r)
@[simp] theorem Rsc.foldAll_credit (es : List RscEvent) (r : Rsc) : (es.foldl Rsc.fold r).credit = r.credit := by
  induction es generalizing r with
  | nil => rfl
  | cons e es ih => exact (ih _).trans (Rsc.fold_credit e r)
@[simp] theorem Rsc.foldAll_seq (es : List RscEvent) (r : Rsc) : (es.foldl Rsc.fold r).seq = r.seq := by
  induction es generalizing r with
  | nil => rfl
  | cons e es ih => exact (ih _).trans (Rsc.fold_seq e r)
@[simp] theorem Rsc.foldAll_recent (es : List RscEvent) (r : Rsc) : (es.foldl Rsc.fold r).recent = r.recent := by
  induction es generalizing r with
  | nil => rfl
  | cons e es ih => exact (ih _).trans (Rsc.fold_recent e r)

/-! ### Rsc.taken -/

@[simp] theorem Rsc.taken_enable (own : RscEvent → Bool) (m : Nat) (r : Rsc) : (r.taken own m).enable = r.enable := by
  unfold Rsc.taken; simp
@[simp] theorem Rsc.taken_intervalMs (own : RscEvent → Bool) (m : Nat) (r : Rsc) : (r.taken own m).intervalMs = r.intervalMs := by
  unfold Rsc.taken; simp
@[simp] theorem Rsc.taken_timer (own : RscEvent → Bool) (m : Nat) (r : Rsc) : (r.taken own m).timer = r.timer := by
  unfold Rsc.taken; simp
@[simp] theorem Rsc.taken_hello (own : RscEvent → Bool) (m : Nat) (r : Rsc) : (r.taken own m).hello = r.hello := by
  unfold Rsc.taken; simp
@[simp] theorem Rsc.taken_sync (own : RscEvent → Bool) (m : Nat) (r : Rsc) : (r.taken own m).sync = r.sync := by
  unfold Rsc.taken; simp
@[simp] theorem Rsc.taken_position (own : RscEvent → Bool) (m : Nat) (r : Rsc) : (r.taken own m).position = r.position := by
  unfold Rsc.taken; simp
@[simp] theorem Rsc.taken_inFlight (own : RscEvent → Bool) (m : Nat) (r : Rsc) : (r.taken own m).inFlight = r.inFlight := by
  unfold Rsc.taken; simp
@[simp] theorem Rsc.taken_waiting (own : RscEvent → Bool) (m : Nat) (r : Rsc) : (r.taken own m).waiting = r.waiting := by
  unfold Rsc.taken; simp
@[simp] theorem Rsc.taken_credit (own : RscEvent → Bool) (m : Nat) (r : Rsc) : (r.taken own m).credit = r.credit := by
  unfold Rsc.taken; simp
@[simp] theorem Rsc.taken_seq (own : RscEvent → Bool) (m : Nat) (r : Rsc) : (r.taken own m).seq = r.seq := by
  unfold Rsc.taken; simp
@[simp] theorem Rsc.taken_recent (own : RscEvent → Bool) (m : Nat) (r : Rsc) : (r.taken own m).recent = r.recent := by
  unfold Rsc.taken; simp
@[simp] theorem Rsc.taken_fresh (own : RscEvent → Bool) (m : Nat) (r : Rsc) : (r.taken own m).fresh = r.picked own true m := by
  unfold Rsc.taken; simp

/-! ### Rsc.takenAll -/

@[simp] theorem Rsc.takenAll_enable (r : Rsc) : r.takenAll.enable = r.enable := by unfold Rsc.takenAll; simp
@[simp] theorem Rsc.takenAll_intervalMs (r : Rsc) : r.takenAll.intervalMs = r.intervalMs := by unfold Rsc.takenAll; simp
@[simp] theorem Rsc.takenAll_timer (r : Rsc) : r.takenAll.timer = r.timer := by unfold Rsc.takenAll; simp
@[simp] theorem Rsc.takenAll_hello (r : Rsc) : r.takenAll.hello = r.hello := by unfold Rsc.takenAll; simp
@[simp] theorem Rsc.takenAll_sync (r : Rsc) : r.takenAll.sync = r.sync := by unfold Rsc.takenAll; simp
@[simp] theorem Rsc.takenAll_position (r : Rsc) : r.takenAll.position = r.position := by unfold Rsc.takenAll; simp
@[simp] theorem Rsc.takenAll_inFlight (r : Rsc) : r.takenAll.inFlight = r.inFlight := by unfold Rsc.takenAll; simp
@[simp] theorem Rsc.takenAll_waiting (r : Rsc) : r.takenAll.waiting = r.waiting := by unfold Rsc.takenAll; simp
@[simp] theorem Rsc.takenAll_credit (r : Rsc) : r.takenAll.credit = r.credit := by unfold Rsc.takenAll; simp
@[simp] theorem Rsc.takenAll_seq (r : Rsc) : r.takenAll.seq = r.seq := by unfold Rsc.takenAll; simp
@[simp] theorem Rsc.takenAll_recent (r : Rsc) : r.takenAll.recent = r.recent := by unfold Rsc.takenAll; simp

/-- Where no event may be late, none is. -/
theorem markLate_none (m : Nat) (es : List RscEvent) : markLate (fun _ => false) m es = es.map fun e => (false, e) := by
  induction es generalizing m with
  | nil => rfl
  | cons e es ih => simp [markLate, ih]
/-- All events are folded, in the order in which they came. -/
theorem Rsc.takenAll_eq (r : Rsc) : r.takenAll = r.fresh.foldl Rsc.fold { r with fresh := [] } := by
  unfold Rsc.takenAll Rsc.taken Rsc.picked
  rw [markLate_none]
  simp [List.filter_map, Function.comp_def]
@[simp] theorem Rsc.takenAll_fresh (r : Rsc) : r.takenAll.fresh = [] := by rw [Rsc.takenAll_eq]; simp

/-! ### Rsc.beforeReport -/

@[simp] theorem Rsc.beforeReport_enable (k : ReportKind) (m : Nat) (r : Rsc) : (r.beforeReport k m).enable = r.enable := by
  unfold Rsc.beforeReport; split <;> simp
@[simp] theorem Rsc.beforeReport_intervalMs (k : ReportKind) (m : Nat) (r : Rsc) : (r.beforeReport k m).intervalMs = r.intervalMs := by
  unfold Rsc.beforeReport; split <;> simp
@[simp] theorem Rsc.beforeReport_timer (k : ReportKind) (m : Nat) (r : Rsc) : (r.beforeReport k m).timer = r.timer := by
  unfold Rsc.beforeReport; split <;> simp
@[simp] theorem Rsc.beforeReport_hello (k : ReportKind) (m : Nat) (r : Rsc) : (r.beforeReport k m).hello = r.hello := by
  unfold Rsc.beforeReport; split <;> simp
@[simp] theorem Rsc.beforeReport_sync (k : ReportKind) (m : Nat) (r : Rsc) : (r.beforeReport k m).sync = r.sync := by
  unfold Rsc.beforeReport; split <;> simp
@[simp] theorem Rsc.beforeReport_position (k : ReportKind) (m : Nat) (r : Rsc) : (r.beforeReport k m).position = r.position := by
  unfold Rsc.beforeReport; split <;> simp
@[simp] theorem Rsc.beforeReport_inFlight (k : ReportKind) (m : Nat) (r : Rsc) : (r.beforeReport k m).inFlight = r.inFlight := by
  unfold Rsc.beforeReport; split <;> simp
@[simp] theorem Rsc.beforeReport_waiting (k : ReportKind) (m : Nat) (r : Rsc) : (r.beforeReport k m).waiting = r.waiting := by
  unfold Rsc.beforeReport; split <;> simp
@[simp] theorem Rsc.beforeReport_credit (k : ReportKind) (m : Nat) (r : Rsc) : (r.beforeReport k m).credit = r.credit := by
  unfold Rsc.beforeReport; split <;> simp
@[simp] theorem Rsc.beforeReport_seq (k : ReportKind) (m : Nat) (r : Rsc) : (r.beforeReport k m).seq = r.seq := by
  unfold Rsc.beforeReport; split <;> simp
@[simp] theorem Rsc.beforeReport_recent (k : ReportKind) (m : Nat) (r : Rsc) : (r.beforeReport k m).recent = r.recent := by
  unfold Rsc.beforeReport; split <;> simp

/-! ### Rsc.syncEvent -/

@[simp] theorem Rsc.syncEvent_fresh (x : SyncState) (c : SyncCause) (w : Word32) (r : Rsc) : (r.syncEvent x c w).fresh = r.fresh :=
  rfl
@[simp] theorem Rsc.syncEvent_enable (x : SyncState) (c : SyncCause) (w : Word32) (r : Rsc) : (r.syncEvent x c w).enable = r.enable :=
  rfl
@[simp] theorem Rsc.syncEvent_intervalMs (x : SyncState) (c : SyncCause) (w : Word32) (r : Rsc) : (r.syncEvent x c w).intervalMs = r.intervalMs :=
  rfl
@[simp] theorem Rsc.syncEvent_timer (x : SyncState) (c : SyncCause) (w : Word32) (r : Rsc) : (r.syncEvent x c w).timer = r.timer :=
  rfl
@[simp] theorem Rsc.syncEvent_hello (x : SyncState) (c : SyncCause) (w : Word32) (r : Rsc) : (r.syncEvent x c w).hello = r.hello :=
  rfl
@[simp] theorem Rsc.syncEvent_fault (x : SyncState) (c : SyncCause) (w : Word32) (r : Rsc) : (r.syncEvent x c w).fault = r.fault :=
  rfl
@[simp] theorem Rsc.syncEvent_motion (x : SyncState) (c : SyncCause) (w : Word32) (r : Rsc) : (r.syncEvent x c w).motion = r.motion :=
  rfl
@[simp] theorem Rsc.syncEvent_position (x : SyncState) (c : SyncCause) (w : Word32) (r : Rsc) : (r.syncEvent x c w).position = r.position :=
  rfl
@[simp] theorem Rsc.syncEvent_inFlight (x : SyncState) (c : SyncCause) (w : Word32) (r : Rsc) : (r.syncEvent x c w).inFlight = r.inFlight :=
  rfl
@[simp] theorem Rsc.syncEvent_waiting (x : SyncState) (c : SyncCause) (w : Word32) (r : Rsc) : (r.syncEvent x c w).waiting = r.waiting :=
  rfl
@[simp] theorem Rsc.syncEvent_credit (x : SyncState) (c : SyncCause) (w : Word32) (r : Rsc) : (r.syncEvent x c w).credit = r.credit :=
  rfl
@[simp] theorem Rsc.syncEvent_seq (x : SyncState) (c : SyncCause) (w : Word32) (r : Rsc) : (r.syncEvent x c w).seq = r.seq :=
  rfl
@[simp] theorem Rsc.syncEvent_recent (x : SyncState) (c : SyncCause) (w : Word32) (r : Rsc) : (r.syncEvent x c w).recent = r.recent :=
  rfl

/-! ### Rsc.addFault -/

@[simp] theorem Rsc.addFault_enable (k : FaultKind) (r : Rsc) : (r.addFault k).enable = r.enable := rfl
@[simp] theorem Rsc.addFault_fault (k : FaultKind) (r : Rsc) : (r.addFault k).fault = r.fault := rfl
@[simp] theorem Rsc.addFault_intervalMs (k : FaultKind) (r : Rsc) : (r.addFault k).intervalMs = r.intervalMs := rfl
@[simp] theorem Rsc.addFault_timer (k : FaultKind) (r : Rsc) : (r.addFault k).timer = r.timer := rfl
@[simp] theorem Rsc.addFault_hello (k : FaultKind) (r : Rsc) : (r.addFault k).hello = r.hello := rfl
@[simp] theorem Rsc.addFault_sync (k : FaultKind) (r : Rsc) : (r.addFault k).sync = r.sync := rfl
@[simp] theorem Rsc.addFault_motion (k : FaultKind) (r : Rsc) : (r.addFault k).motion = r.motion := rfl
@[simp] theorem Rsc.addFault_position (k : FaultKind) (r : Rsc) : (r.addFault k).position = r.position := rfl
@[simp] theorem Rsc.addFault_inFlight (k : FaultKind) (r : Rsc) : (r.addFault k).inFlight = r.inFlight := rfl
@[simp] theorem Rsc.addFault_waiting (k : FaultKind) (r : Rsc) : (r.addFault k).waiting = r.waiting := rfl
@[simp] theorem Rsc.addFault_credit (k : FaultKind) (r : Rsc) : (r.addFault k).credit = r.credit := rfl
@[simp] theorem Rsc.addFault_seq (k : FaultKind) (r : Rsc) : (r.addFault k).seq = r.seq := rfl
@[simp] theorem Rsc.addFault_recent (k : FaultKind) (r : Rsc) : (r.addFault k).recent = r.recent := rfl

/-! ### Rsc.addMotions -/

@[simp] theorem Rsc.addMotions_enable (ks : List MotionKind) (r : Rsc) : (r.addMotions ks).enable = r.enable := rfl
@[simp] theorem Rsc.addMotions_motion (ks : List MotionKind) (r : Rsc) : (r.addMotions ks).motion = r.motion := rfl
@[simp] theorem Rsc.addMotions_intervalMs (ks : List MotionKind) (r : Rsc) : (r.addMotions ks).intervalMs = r.intervalMs :=
  rfl
@[simp] theorem Rsc.addMotions_timer (ks : List MotionKind) (r : Rsc) : (r.addMotions ks).timer = r.timer := rfl
@[simp] theorem Rsc.addMotions_hello (ks : List MotionKind) (r : Rsc) : (r.addMotions ks).hello = r.hello := rfl
@[simp] theorem Rsc.addMotions_sync (ks : List MotionKind) (r : Rsc) : (r.addMotions ks).sync = r.sync := rfl
@[simp] theorem Rsc.addMotions_fault (ks : List MotionKind) (r : Rsc) : (r.addMotions ks).fault = r.fault := rfl
@[simp] theorem Rsc.addMotions_position (ks : List MotionKind) (r : Rsc) : (r.addMotions ks).position = r.position :=
  rfl
@[simp] theorem Rsc.addMotions_inFlight (ks : List MotionKind) (r : Rsc) : (r.addMotions ks).inFlight = r.inFlight :=
  rfl
@[simp] theorem Rsc.addMotions_waiting (ks : List MotionKind) (r : Rsc) : (r.addMotions ks).waiting = r.waiting := rfl
@[simp] theorem Rsc.addMotions_credit (ks : List MotionKind) (r : Rsc) : (r.addMotions ks).credit = r.credit := rfl
@[simp] theorem Rsc.addMotions_seq (ks : List MotionKind) (r : Rsc) : (r.addMotions ks).seq = r.seq := rfl
@[simp] theorem Rsc.addMotions_recent (ks : List MotionKind) (r : Rsc) : (r.addMotions ks).recent = r.recent := rfl

/-! ### Rsc.accept -/

@[simp] theorem Rsc.accept_enable (r : Rsc) : (r.accept).enable = r.enable := rfl
@[simp] theorem Rsc.accept_fresh (r : Rsc) : (r.accept).fresh = r.fresh := rfl
@[simp] theorem Rsc.accept_intervalMs (r : Rsc) : (r.accept).intervalMs = r.intervalMs := rfl
@[simp] theorem Rsc.accept_timer (r : Rsc) : (r.accept).timer = r.timer := rfl
@[simp] theorem Rsc.accept_hello (r : Rsc) : (r.accept).hello = r.hello := rfl
@[simp] theorem Rsc.accept_sync (r : Rsc) : (r.accept).sync = r.sync := rfl
@[simp] theorem Rsc.accept_fault (r : Rsc) : (r.accept).fault = r.fault := rfl
@[simp] theorem Rsc.accept_motion (r : Rsc) : (r.accept).motion = r.motion := rfl
@[simp] theorem Rsc.accept_position (r : Rsc) : (r.accept).position = r.position := rfl
@[simp] theorem Rsc.accept_waiting (r : Rsc) : (r.accept).waiting = r.waiting := rfl
@[simp] theorem Rsc.accept_credit (r : Rsc) : (r.accept).credit = r.credit := rfl
@[simp] theorem Rsc.accept_seq (r : Rsc) : (r.accept).seq = r.seq := rfl
@[simp] theorem Rsc.accept_recent (r : Rsc) : (r.accept).recent = r.recent := rfl

/-! ### Rsc.complete -/

@[simp] theorem Rsc.complete_enable (c : Completion) (r : Rsc) : (r.complete c).enable = r.enable := rfl
@[simp] theorem Rsc.complete_fresh (c : Completion) (r : Rsc) : (r.complete c).fresh = r.fresh := rfl
@[simp] theorem Rsc.complete_intervalMs (c : Completion) (r : Rsc) : (r.complete c).intervalMs = r.intervalMs := rfl
@[simp] theorem Rsc.complete_timer (c : Completion) (r : Rsc) : (r.complete c).timer = r.timer := rfl
@[simp] theorem Rsc.complete_hello (c : Completion) (r : Rsc) : (r.complete c).hello = r.hello := rfl
@[simp] theorem Rsc.complete_sync (c : Completion) (r : Rsc) : (r.complete c).sync = r.sync := rfl
@[simp] theorem Rsc.complete_fault (c : Completion) (r : Rsc) : (r.complete c).fault = r.fault := rfl
@[simp] theorem Rsc.complete_motion (c : Completion) (r : Rsc) : (r.complete c).motion = r.motion := rfl
@[simp] theorem Rsc.complete_position (c : Completion) (r : Rsc) : (r.complete c).position = r.position := rfl
@[simp] theorem Rsc.complete_credit (c : Completion) (r : Rsc) : (r.complete c).credit = r.credit := rfl
@[simp] theorem Rsc.complete_seq (c : Completion) (r : Rsc) : (r.complete c).seq = r.seq := rfl

/-! ### Rsc.ordered -/

/-- Whatever the code, the list keeps its elements. -/
theorem shuffle_perm {α : Type} (code : Nat) (xs : List α) : (shuffle code xs).Perm xs := by
  induction xs generalizing code with
  | nil => exact .refl _
  | cons x xs ih =>
    have h := ih (code / (xs.length + 1))
    have hl : code % (xs.length + 1) ≤ (shuffle (code / (xs.length + 1)) xs).length := by
      rw [h.length_eq]
      exact Nat.le_of_lt_succ (Nat.mod_lt _ (Nat.succ_pos _))
    exact (List.perm_insertIdx x _ hl).trans (h.cons x)

@[simp] theorem shuffle_length {α : Type} (code : Nat) (xs : List α) : (shuffle code xs).length = xs.length :=
  (shuffle_perm code xs).length_eq

/-- Code 0 leaves the list as it is. -/
@[simp] theorem shuffle_zero {α : Type} (xs : List α) : shuffle 0 xs = xs := by
  induction xs with
  | nil => rfl
  | cons x xs ih => simp [shuffle, ih]

/-- Settling the order of the completions keeps them. -/
theorem Rsc.ordered_perm (code : Nat) (r : Rsc) : (r.ordered code).waiting.Perm r.waiting := by
  have h := (shuffle_perm code (r.waiting.drop (r.waiting.length - r.recent))).append_left
    (r.waiting.take (r.waiting.length - r.recent))
  rwa [List.take_append_drop] at h

@[simp] theorem Rsc.ordered_length (code : Nat) (r : Rsc) : (r.ordered code).waiting.length = r.waiting.length :=
  (r.ordered_perm code).length_eq

@[simp] theorem Rsc.ordered_enable (code : Nat) (r : Rsc) : (r.ordered code).enable = r.enable := rfl
@[simp] theorem Rsc.ordered_intervalMs (code : Nat) (r : Rsc) : (r.ordered code).intervalMs = r.intervalMs := rfl
@[simp] theorem Rsc.ordered_timer (code : Nat) (r : Rsc) : (r.ordered code).timer = r.timer := rfl
@[simp] theorem Rsc.ordered_hello (code : Nat) (r : Rsc) : (r.ordered code).hello = r.hello := rfl
@[simp] theorem Rsc.ordered_sync (code : Nat) (r : Rsc) : (r.ordered code).sync = r.sync := rfl
@[simp] theorem Rsc.ordered_fault (code : Nat) (r : Rsc) : (r.ordered code).fault = r.fault := rfl
@[simp] theorem Rsc.ordered_motion (code : Nat) (r : Rsc) : (r.ordered code).motion = r.motion := rfl
@[simp] theorem Rsc.ordered_position (code : Nat) (r : Rsc) : (r.ordered code).position = r.position := rfl
@[simp] theorem Rsc.ordered_fresh (code : Nat) (r : Rsc) : (r.ordered code).fresh = r.fresh := rfl
@[simp] theorem Rsc.ordered_inFlight (code : Nat) (r : Rsc) : (r.ordered code).inFlight = r.inFlight := rfl
@[simp] theorem Rsc.ordered_credit (code : Nat) (r : Rsc) : (r.ordered code).credit = r.credit := rfl
@[simp] theorem Rsc.ordered_seq (code : Nat) (r : Rsc) : (r.ordered code).seq = r.seq := rfl
@[simp] theorem Rsc.ordered_recent (code : Nat) (r : Rsc) : (r.ordered code).recent = 0 := rfl

/-! ### Rsc.handOver -/

@[simp] theorem Rsc.handOver_enable (k : ReportKind) (r : Rsc) : (r.handOver k).enable = r.enable := rfl
@[simp] theorem Rsc.handOver_fresh (k : ReportKind) (r : Rsc) : (r.handOver k).fresh = r.fresh := rfl
@[simp] theorem Rsc.handOver_intervalMs (k : ReportKind) (r : Rsc) : (r.handOver k).intervalMs = r.intervalMs := rfl
@[simp] theorem Rsc.handOver_timer (k : ReportKind) (r : Rsc) : (r.handOver k).timer = r.timer := rfl
@[simp] theorem Rsc.handOver_inFlight (k : ReportKind) (r : Rsc) : (r.handOver k).inFlight = r.inFlight := rfl

/-! ### Rsc.configure -/

@[simp] theorem Rsc.configure_hello (e : EnableSet) (n : Nat) (w : Word32) (r : Rsc) : (r.configure e n w).hello = r.hello :=
  rfl
@[simp] theorem Rsc.configure_inFlight (e : EnableSet) (n : Nat) (w : Word32) (r : Rsc) : (r.configure e n w).inFlight = r.inFlight :=
  rfl
@[simp] theorem Rsc.configure_waiting (e : EnableSet) (n : Nat) (w : Word32) (r : Rsc) : (r.configure e n w).waiting = r.waiting :=
  rfl
@[simp] theorem Rsc.configure_credit (e : EnableSet) (n : Nat) (w : Word32) (r : Rsc) : (r.configure e n w).credit = r.credit :=
  rfl
@[simp] theorem Rsc.configure_seq (e : EnableSet) (n : Nat) (w : Word32) (r : Rsc) : (r.configure e n w).seq = r.seq :=
  rfl
@[simp] theorem Rsc.configure_recent (e : EnableSet) (n : Nat) (w : Word32) (r : Rsc) : (r.configure e n w).recent = r.recent :=
  rfl

/-! ### Tsu.testOverspeed -/

@[simp] theorem Tsu.testOverspeed_timebase (t : Tsu) : (t.testOverspeed).timebase = t.timebase := rfl
@[simp] theorem Tsu.testOverspeed_ticking (t : Tsu) : (t.testOverspeed).ticking = t.ticking := rfl
@[simp] theorem Tsu.testOverspeed_history (t : Tsu) : (t.testOverspeed).history = t.history := rfl
@[simp] theorem Tsu.testOverspeed_lastDir (t : Tsu) : (t.testOverspeed).lastDir = t.lastDir := rfl
@[simp] theorem Tsu.testOverspeed_estimate (t : Tsu) : (t.testOverspeed).estimate = t.estimate := rfl
@[simp] theorem Tsu.testOverspeed_presented (t : Tsu) : (t.testOverspeed).presented = t.presented := rfl
@[simp] theorem Tsu.testOverspeed_stalled (t : Tsu) : (t.testOverspeed).stalled = t.stalled := rfl
@[simp] theorem Tsu.testOverspeed_depth (t : Tsu) : (t.testOverspeed).depth = t.depth := rfl
@[simp] theorem Tsu.testOverspeed_stallMs (t : Tsu) : (t.testOverspeed).stallMs = t.stallMs := rfl
@[simp] theorem Tsu.testOverspeed_overspeedLimit (t : Tsu) : (t.testOverspeed).overspeedLimit = t.overspeedLimit := rfl

/-! ### Tsu.present -/

@[simp] theorem Tsu.present_timebase (v : Int) (t : Tsu) : (t.present v).timebase = t.timebase := by
  unfold Tsu.present; split <;> simp
@[simp] theorem Tsu.present_ticking (v : Int) (t : Tsu) : (t.present v).ticking = t.ticking := by
  unfold Tsu.present; split <;> simp
@[simp] theorem Tsu.present_history (v : Int) (t : Tsu) : (t.present v).history = t.history := by
  unfold Tsu.present; split <;> simp
@[simp] theorem Tsu.present_lastDir (v : Int) (t : Tsu) : (t.present v).lastDir = t.lastDir := by
  unfold Tsu.present; split <;> simp
@[simp] theorem Tsu.present_estimate (v : Int) (t : Tsu) : (t.present v).estimate = t.estimate := by
  unfold Tsu.present; split <;> simp
@[simp] theorem Tsu.present_stalled (v : Int) (t : Tsu) : (t.present v).stalled = t.stalled := by
  unfold Tsu.present; split <;> simp
@[simp] theorem Tsu.present_depth (v : Int) (t : Tsu) : (t.present v).depth = t.depth := by
  unfold Tsu.present; split <;> simp
@[simp] theorem Tsu.present_stallMs (v : Int) (t : Tsu) : (t.present v).stallMs = t.stallMs := by
  unfold Tsu.present; split <;> simp
@[simp] theorem Tsu.present_overspeedLimit (v : Int) (t : Tsu) : (t.present v).overspeedLimit = t.overspeedLimit := by
  unfold Tsu.present; split <;> simp

/-! ### Tsu.step -/

@[simp] theorem Tsu.step_timebase (d : Dir) (t : Tsu) : (t.step d).timebase = t.timebase := by
  unfold Tsu.step; split <;> simp
@[simp] theorem Tsu.step_ticking (d : Dir) (t : Tsu) : (t.step d).ticking = t.ticking := by
  unfold Tsu.step; split <;> simp
@[simp] theorem Tsu.step_depth (d : Dir) (t : Tsu) : (t.step d).depth = t.depth := by unfold Tsu.step; split <;> simp
@[simp] theorem Tsu.step_stallMs (d : Dir) (t : Tsu) : (t.step d).stallMs = t.stallMs := by
  unfold Tsu.step; split <;> simp
@[simp] theorem Tsu.step_overspeedLimit (d : Dir) (t : Tsu) : (t.step d).overspeedLimit = t.overspeedLimit := by
  unfold Tsu.step; split <;> simp

/-! ### Tsu.stall -/

@[simp] theorem Tsu.stall_timebase (t : Tsu) : (t.stall).timebase = t.timebase := by unfold Tsu.stall; simp
@[simp] theorem Tsu.stall_ticking (t : Tsu) : (t.stall).ticking = t.ticking := by unfold Tsu.stall; simp
@[simp] theorem Tsu.stall_lastDir (t : Tsu) : (t.stall).lastDir = t.lastDir := by unfold Tsu.stall; simp
@[simp] theorem Tsu.stall_depth (t : Tsu) : (t.stall).depth = t.depth := by unfold Tsu.stall; simp
@[simp] theorem Tsu.stall_stallMs (t : Tsu) : (t.stall).stallMs = t.stallMs := by unfold Tsu.stall; simp
@[simp] theorem Tsu.stall_overspeedLimit (t : Tsu) : (t.stall).overspeedLimit = t.overspeedLimit := by
  unfold Tsu.stall; simp

/-! ### Tsu.tick -/

@[simp] theorem Tsu.tick_history (t : Tsu) : (t.tick).history = t.history := rfl
@[simp] theorem Tsu.tick_lastDir (t : Tsu) : (t.tick).lastDir = t.lastDir := rfl
@[simp] theorem Tsu.tick_estimate (t : Tsu) : (t.tick).estimate = t.estimate := rfl
@[simp] theorem Tsu.tick_presented (t : Tsu) : (t.tick).presented = t.presented := rfl
@[simp] theorem Tsu.tick_stalled (t : Tsu) : (t.tick).stalled = t.stalled := rfl
@[simp] theorem Tsu.tick_overspeed (t : Tsu) : (t.tick).overspeed = t.overspeed := rfl
@[simp] theorem Tsu.tick_depth (t : Tsu) : (t.tick).depth = t.depth := rfl
@[simp] theorem Tsu.tick_stallMs (t : Tsu) : (t.tick).stallMs = t.stallMs := rfl
@[simp] theorem Tsu.tick_overspeedLimit (t : Tsu) : (t.tick).overspeedLimit = t.overspeedLimit := rfl

/-! ### Cts.swap -/

@[simp] theorem Cts.swap_shadow (c : Cts) : (c.swap).shadow = c.shadow := rfl

/-! ### Cts.edit -/

@[simp] theorem Cts.edit_active (t : Fin 8) (tab : TrackTable) (n : Nat) (c : Cts) : (c.edit t tab n).active = c.active :=
  rfl
@[simp] theorem Cts.edit_generation (t : Fin 8) (tab : TrackTable) (n : Nat) (c : Cts) : (c.edit t tab n).generation = c.generation :=
  rfl

/-! ### Tev.clearMemories -/

@[simp] theorem Tev.clearMemories_enable (t : Tev) : (t.clearMemories).enable = t.enable := rfl

/-! ### Lkp.startReply -/

@[simp] theorem Lkp.startReply_straps (k : Lkp) : (k.startReply).straps = k.straps := by
  unfold Lkp.startReply; split <;> simp
@[simp] theorem Lkp.startReply_rx (k : Lkp) : (k.startReply).rx = k.rx := by unfold Lkp.startReply; split <;> simp
@[simp] theorem Lkp.startReply_rxLine (k : Lkp) : (k.startReply).rxLine = k.rxLine := by
  unfold Lkp.startReply; split <;> simp
@[simp] theorem Lkp.startReply_gapTimer (k : Lkp) : (k.startReply).gapTimer = k.gapTimer := by
  unfold Lkp.startReply; split <;> simp
@[simp] theorem Lkp.startReply_inbound (k : Lkp) : (k.startReply).inbound = k.inbound := by
  unfold Lkp.startReply; split <;> simp
@[simp] theorem Lkp.startReply_cache (k : Lkp) : (k.startReply).cache = k.cache := by
  unfold Lkp.startReply; split <;> simp
@[simp] theorem Lkp.startReply_counters (k : Lkp) : (k.startReply).counters = k.counters := by
  unfold Lkp.startReply; split <;> simp
@[simp] theorem Lkp.startReply_resetPending (k : Lkp) : (k.startReply).resetPending = k.resetPending := by
  unfold Lkp.startReply; split <;> simp
@[simp] theorem Lkp.startReply_resetCount (k : Lkp) : (k.startReply).resetCount = k.resetCount := by
  unfold Lkp.startReply; split <;> simp
@[simp] theorem Lkp.startReply_resetCause (k : Lkp) : (k.startReply).resetCause = k.resetCause := by
  unfold Lkp.startReply; split <;> simp

/-! ### Lkp.placeReply -/

@[simp] theorem Lkp.placeReply_straps (r : Reply) (k : Lkp) : (k.placeReply r).straps = k.straps := by
  unfold Lkp.placeReply; simp
@[simp] theorem Lkp.placeReply_rx (r : Reply) (k : Lkp) : (k.placeReply r).rx = k.rx := by unfold Lkp.placeReply; simp
@[simp] theorem Lkp.placeReply_rxLine (r : Reply) (k : Lkp) : (k.placeReply r).rxLine = k.rxLine := by
  unfold Lkp.placeReply; simp
@[simp] theorem Lkp.placeReply_gapTimer (r : Reply) (k : Lkp) : (k.placeReply r).gapTimer = k.gapTimer := by
  unfold Lkp.placeReply; simp
@[simp] theorem Lkp.placeReply_inbound (r : Reply) (k : Lkp) : (k.placeReply r).inbound = k.inbound := by
  unfold Lkp.placeReply; simp
@[simp] theorem Lkp.placeReply_cache (r : Reply) (k : Lkp) : (k.placeReply r).cache = k.cache := by
  unfold Lkp.placeReply; simp
@[simp] theorem Lkp.placeReply_counters (r : Reply) (k : Lkp) : (k.placeReply r).counters = k.counters := by
  unfold Lkp.placeReply; simp
@[simp] theorem Lkp.placeReply_resetPending (r : Reply) (k : Lkp) : (k.placeReply r).resetPending = k.resetPending := by
  unfold Lkp.placeReply; simp
@[simp] theorem Lkp.placeReply_resetCount (r : Reply) (k : Lkp) : (k.placeReply r).resetCount = k.resetCount := by
  unfold Lkp.placeReply; simp
@[simp] theorem Lkp.placeReply_resetCause (r : Reply) (k : Lkp) : (k.placeReply r).resetCause = k.resetCause := by
  unfold Lkp.placeReply; simp

/-! ### Lkp.endTransmission -/

@[simp] theorem Lkp.endTransmission_straps (k : Lkp) : (k.endTransmission).straps = k.straps := by
  unfold Lkp.endTransmission; (repeat' split) <;> first | rfl | simp
@[simp] theorem Lkp.endTransmission_rx (k : Lkp) : (k.endTransmission).rx = k.rx := by
  unfold Lkp.endTransmission; (repeat' split) <;> first | rfl | simp
@[simp] theorem Lkp.endTransmission_rxLine (k : Lkp) : (k.endTransmission).rxLine = k.rxLine := by
  unfold Lkp.endTransmission; (repeat' split) <;> first | rfl | simp
@[simp] theorem Lkp.endTransmission_gapTimer (k : Lkp) : (k.endTransmission).gapTimer = k.gapTimer := by
  unfold Lkp.endTransmission; (repeat' split) <;> first | rfl | simp
@[simp] theorem Lkp.endTransmission_inbound (k : Lkp) : (k.endTransmission).inbound = k.inbound := by
  unfold Lkp.endTransmission; (repeat' split) <;> first | rfl | simp
@[simp] theorem Lkp.endTransmission_cache (k : Lkp) : (k.endTransmission).cache = k.cache := by
  unfold Lkp.endTransmission; (repeat' split) <;> first | rfl | simp
@[simp] theorem Lkp.endTransmission_counters (k : Lkp) : (k.endTransmission).counters = k.counters := by
  unfold Lkp.endTransmission; (repeat' split) <;> first | rfl | simp
@[simp] theorem Lkp.endTransmission_resetPending (k : Lkp) : (k.endTransmission).resetPending = k.resetPending := by
  unfold Lkp.endTransmission; (repeat' split) <;> first | rfl | simp
@[simp] theorem Lkp.endTransmission_resetCount (k : Lkp) : (k.endTransmission).resetCount = k.resetCount := by
  unfold Lkp.endTransmission; (repeat' split) <;> first | rfl | simp
@[simp] theorem Lkp.endTransmission_resetCause (k : Lkp) : (k.endTransmission).resetCause = k.resetCause := by
  unfold Lkp.endTransmission; (repeat' split) <;> first | rfl | simp

/-! ### Lkp.admitFrame -/

@[simp] theorem Lkp.admitFrame_straps (r : Request) (k : Lkp) : (k.admitFrame r).straps = k.straps := by
  unfold Lkp.admitFrame; (repeat' split) <;> first | rfl | simp
@[simp] theorem Lkp.admitFrame_rx (r : Request) (k : Lkp) : (k.admitFrame r).rx = k.rx := by
  unfold Lkp.admitFrame; (repeat' split) <;> first | rfl | simp
@[simp] theorem Lkp.admitFrame_rxLine (r : Request) (k : Lkp) : (k.admitFrame r).rxLine = k.rxLine := by
  unfold Lkp.admitFrame; (repeat' split) <;> first | rfl | simp
@[simp] theorem Lkp.admitFrame_gapTimer (r : Request) (k : Lkp) : (k.admitFrame r).gapTimer = k.gapTimer := by
  unfold Lkp.admitFrame; (repeat' split) <;> first | rfl | simp
@[simp] theorem Lkp.admitFrame_cache (r : Request) (k : Lkp) : (k.admitFrame r).cache = k.cache := by
  unfold Lkp.admitFrame; (repeat' split) <;> first | rfl | simp
@[simp] theorem Lkp.admitFrame_resetPending (r : Request) (k : Lkp) : (k.admitFrame r).resetPending = k.resetPending := by
  unfold Lkp.admitFrame; (repeat' split) <;> first | rfl | simp
@[simp] theorem Lkp.admitFrame_resetCount (r : Request) (k : Lkp) : (k.admitFrame r).resetCount = k.resetCount := by
  unfold Lkp.admitFrame; (repeat' split) <;> first | rfl | simp
@[simp] theorem Lkp.admitFrame_resetCause (r : Request) (k : Lkp) : (k.admitFrame r).resetCause = k.resetCause := by
  unfold Lkp.admitFrame; (repeat' split) <;> first | rfl | simp

/-! ### Lkp.toHunt -/

@[simp] theorem Lkp.toHunt_straps (k : Lkp) : (k.toHunt).straps = k.straps := rfl
@[simp] theorem Lkp.toHunt_rxLine (k : Lkp) : (k.toHunt).rxLine = k.rxLine := rfl
@[simp] theorem Lkp.toHunt_inbound (k : Lkp) : (k.toHunt).inbound = k.inbound := rfl
@[simp] theorem Lkp.toHunt_replies (k : Lkp) : (k.toHunt).replies = k.replies := rfl
@[simp] theorem Lkp.toHunt_cache (k : Lkp) : (k.toHunt).cache = k.cache := rfl
@[simp] theorem Lkp.toHunt_tx (k : Lkp) : (k.toHunt).tx = k.tx := rfl
@[simp] theorem Lkp.toHunt_counters (k : Lkp) : (k.toHunt).counters = k.counters := rfl
@[simp] theorem Lkp.toHunt_resetPending (k : Lkp) : (k.toHunt).resetPending = k.resetPending := rfl
@[simp] theorem Lkp.toHunt_resetCount (k : Lkp) : (k.toHunt).resetCount = k.resetCount := rfl
@[simp] theorem Lkp.toHunt_resetCause (k : Lkp) : (k.toHunt).resetCause = k.resetCause := rfl

/-! ### Lkp.checkCrc -/

@[simp] theorem Lkp.checkCrc_straps (len : Byte) (buf : List Byte) (c : Word16) (k : Lkp) : (k.checkCrc len buf c).straps = k.straps := by
  unfold Lkp.checkCrc; split <;> simp
@[simp] theorem Lkp.checkCrc_rxLine (len : Byte) (buf : List Byte) (c : Word16) (k : Lkp) : (k.checkCrc len buf c).rxLine = k.rxLine := by
  unfold Lkp.checkCrc; split <;> simp
@[simp] theorem Lkp.checkCrc_cache (len : Byte) (buf : List Byte) (c : Word16) (k : Lkp) : (k.checkCrc len buf c).cache = k.cache := by
  unfold Lkp.checkCrc; split <;> simp
@[simp] theorem Lkp.checkCrc_resetPending (len : Byte) (buf : List Byte) (c : Word16) (k : Lkp) : (k.checkCrc len buf c).resetPending = k.resetPending := by
  unfold Lkp.checkCrc; split <;> simp
@[simp] theorem Lkp.checkCrc_resetCount (len : Byte) (buf : List Byte) (c : Word16) (k : Lkp) : (k.checkCrc len buf c).resetCount = k.resetCount := by
  unfold Lkp.checkCrc; split <;> simp
@[simp] theorem Lkp.checkCrc_resetCause (len : Byte) (buf : List Byte) (c : Word16) (k : Lkp) : (k.checkCrc len buf c).resetCause = k.resetCause := by
  unfold Lkp.checkCrc; split <;> simp

/-! ### Lkp.rxGood -/

@[simp] theorem Lkp.rxGood_straps (b : Byte) (k : Lkp) : (k.rxGood b).straps = k.straps := by
  unfold Lkp.rxGood; (repeat' split) <;> first | rfl | simp
@[simp] theorem Lkp.rxGood_rxLine (b : Byte) (k : Lkp) : (k.rxGood b).rxLine = k.rxLine := by
  unfold Lkp.rxGood; (repeat' split) <;> first | rfl | simp
@[simp] theorem Lkp.rxGood_cache (b : Byte) (k : Lkp) : (k.rxGood b).cache = k.cache := by
  unfold Lkp.rxGood; (repeat' split) <;> first | rfl | simp
@[simp] theorem Lkp.rxGood_resetPending (b : Byte) (k : Lkp) : (k.rxGood b).resetPending = k.resetPending := by
  unfold Lkp.rxGood; (repeat' split) <;> first | rfl | simp
@[simp] theorem Lkp.rxGood_resetCount (b : Byte) (k : Lkp) : (k.rxGood b).resetCount = k.resetCount := by
  unfold Lkp.rxGood; (repeat' split) <;> first | rfl | simp
@[simp] theorem Lkp.rxGood_resetCause (b : Byte) (k : Lkp) : (k.rxGood b).resetCause = k.resetCause := by
  unfold Lkp.rxGood; (repeat' split) <;> first | rfl | simp

/-! ### Lkp.rxError -/

@[simp] theorem Lkp.rxError_straps (k : Lkp) : (k.rxError).straps = k.straps := by unfold Lkp.rxError; split <;> simp
@[simp] theorem Lkp.rxError_rxLine (k : Lkp) : (k.rxError).rxLine = k.rxLine := by unfold Lkp.rxError; split <;> simp
@[simp] theorem Lkp.rxError_inbound (k : Lkp) : (k.rxError).inbound = k.inbound := by unfold Lkp.rxError; split <;> simp
@[simp] theorem Lkp.rxError_replies (k : Lkp) : (k.rxError).replies = k.replies := by unfold Lkp.rxError; split <;> simp
@[simp] theorem Lkp.rxError_cache (k : Lkp) : (k.rxError).cache = k.cache := by unfold Lkp.rxError; split <;> simp
@[simp] theorem Lkp.rxError_tx (k : Lkp) : (k.rxError).tx = k.tx := by unfold Lkp.rxError; split <;> simp
@[simp] theorem Lkp.rxError_resetPending (k : Lkp) : (k.rxError).resetPending = k.resetPending := by
  unfold Lkp.rxError; split <;> simp
@[simp] theorem Lkp.rxError_resetCount (k : Lkp) : (k.rxError).resetCount = k.resetCount := by
  unfold Lkp.rxError; split <;> simp
@[simp] theorem Lkp.rxError_resetCause (k : Lkp) : (k.rxError).resetCause = k.resetCause := by
  unfold Lkp.rxError; split <;> simp

/-! ### Lkp.receive -/

@[simp] theorem Lkp.receive_straps (e : ByteEvent) (k : Lkp) : (k.receive e).straps = k.straps := by
  unfold Lkp.receive; (repeat' split) <;> first | rfl | simp
@[simp] theorem Lkp.receive_cache (e : ByteEvent) (k : Lkp) : (k.receive e).cache = k.cache := by
  unfold Lkp.receive; (repeat' split) <;> first | rfl | simp
@[simp] theorem Lkp.receive_resetPending (e : ByteEvent) (k : Lkp) : (k.receive e).resetPending = k.resetPending := by
  unfold Lkp.receive; (repeat' split) <;> first | rfl | simp
@[simp] theorem Lkp.receive_resetCount (e : ByteEvent) (k : Lkp) : (k.receive e).resetCount = k.resetCount := by
  unfold Lkp.receive; (repeat' split) <;> first | rfl | simp
@[simp] theorem Lkp.receive_resetCause (e : ByteEvent) (k : Lkp) : (k.receive e).resetCause = k.resetCause := by
  unfold Lkp.receive; (repeat' split) <;> first | rfl | simp

/-! ### Lkp.gapExpired -/

@[simp] theorem Lkp.gapExpired_straps (k : Lkp) : (k.gapExpired).straps = k.straps := by
  unfold Lkp.gapExpired; split <;> simp
@[simp] theorem Lkp.gapExpired_rxLine (k : Lkp) : (k.gapExpired).rxLine = k.rxLine := by
  unfold Lkp.gapExpired; split <;> simp
@[simp] theorem Lkp.gapExpired_inbound (k : Lkp) : (k.gapExpired).inbound = k.inbound := by
  unfold Lkp.gapExpired; split <;> simp
@[simp] theorem Lkp.gapExpired_replies (k : Lkp) : (k.gapExpired).replies = k.replies := by
  unfold Lkp.gapExpired; split <;> simp
@[simp] theorem Lkp.gapExpired_cache (k : Lkp) : (k.gapExpired).cache = k.cache := by
  unfold Lkp.gapExpired; split <;> simp
@[simp] theorem Lkp.gapExpired_tx (k : Lkp) : (k.gapExpired).tx = k.tx := by unfold Lkp.gapExpired; split <;> simp
@[simp] theorem Lkp.gapExpired_resetPending (k : Lkp) : (k.gapExpired).resetPending = k.resetPending := by
  unfold Lkp.gapExpired; split <;> simp
@[simp] theorem Lkp.gapExpired_resetCount (k : Lkp) : (k.gapExpired).resetCount = k.resetCount := by
  unfold Lkp.gapExpired; split <;> simp
@[simp] theorem Lkp.gapExpired_resetCause (k : Lkp) : (k.gapExpired).resetCause = k.resetCause := by
  unfold Lkp.gapExpired; split <;> simp

/-! ### Latch.accept -/

@[simp] theorem Latch.accept_edge (w : Word32) (l : Latch) : (l.accept w).edge = l.edge := rfl
@[simp] theorem Latch.accept_mode (w : Word32) (l : Latch) : (l.accept w).mode = l.mode := rfl
@[simp] theorem Latch.accept_holdoffUs (w : Word32) (l : Latch) : (l.accept w).holdoffUs = l.holdoffUs := rfl
@[simp] theorem Latch.accept_filterLen (w : Word32) (l : Latch) : (l.accept w).filterLen = l.filterLen := rfl
@[simp] theorem Latch.accept_filter (w : Word32) (l : Latch) : (l.accept w).filter = l.filter := rfl
@[simp] theorem Latch.accept_settling (w : Word32) (l : Latch) : (l.accept w).settling = l.settling := rfl
@[simp] theorem Latch.accept_lost (w : Word32) (l : Latch) : (l.accept w).lost = l.lost := rfl
@[simp] theorem Latch.accept_suppressed (w : Word32) (l : Latch) : (l.accept w).suppressed = l.suppressed := rfl

/-! ### Latch.sample -/

@[simp] theorem Latch.sample_edge (b : Bool) (l : Latch) : (l.sample b).edge = l.edge := rfl
@[simp] theorem Latch.sample_mode (b : Bool) (l : Latch) : (l.sample b).mode = l.mode := rfl
@[simp] theorem Latch.sample_holdoffUs (b : Bool) (l : Latch) : (l.sample b).holdoffUs = l.holdoffUs := rfl
@[simp] theorem Latch.sample_filterLen (b : Bool) (l : Latch) : (l.sample b).filterLen = l.filterLen := rfl
@[simp] theorem Latch.sample_arm (b : Bool) (l : Latch) : (l.sample b).arm = l.arm := rfl
@[simp] theorem Latch.sample_holdoff (b : Bool) (l : Latch) : (l.sample b).holdoff = l.holdoff := rfl
@[simp] theorem Latch.sample_lost (b : Bool) (l : Latch) : (l.sample b).lost = l.lost := rfl
@[simp] theorem Latch.sample_suppressed (b : Bool) (l : Latch) : (l.sample b).suppressed = l.suppressed := rfl

/-! ### Latch.configure -/

@[simp] theorem Latch.configure_filter (e : EdgeSel) (m : LatchMode) (u f : Nat) (l : Latch) : (l.configure e m u f).filter = l.filter :=
  rfl
@[simp] theorem Latch.configure_settling (e : EdgeSel) (m : LatchMode) (u f : Nat) (l : Latch) : (l.configure e m u f).settling = l.settling :=
  rfl
@[simp] theorem Latch.configure_lost (e : EdgeSel) (m : LatchMode) (u f : Nat) (l : Latch) : (l.configure e m u f).lost = l.lost :=
  rfl
@[simp] theorem Latch.configure_suppressed (e : EdgeSel) (m : LatchMode) (u f : Nat) (l : Latch) : (l.configure e m u f).suppressed = l.suppressed :=
  rfl

/-! ### Track.hysteresis -/

@[simp] theorem Track.hysteresis_mode (x : EvalInputs) (tab : TrackTable) (t : Track) : (t.hysteresis x tab).mode = t.mode := by
  unfold Track.hysteresis; split <;> simp
@[simp] theorem Track.hysteresis_safe (x : EvalInputs) (tab : TrackTable) (t : Track) : (t.hysteresis x tab).safe = t.safe := by
  unfold Track.hysteresis; split <;> simp
@[simp] theorem Track.hysteresis_polarity (x : EvalInputs) (tab : TrackTable) (t : Track) : (t.hysteresis x tab).polarity = t.polarity := by
  unfold Track.hysteresis; split <;> simp
@[simp] theorem Track.hysteresis_stallInhibit (x : EvalInputs) (tab : TrackTable) (t : Track) : (t.hysteresis x tab).stallInhibit = t.stallInhibit := by
  unfold Track.hysteresis; split <;> simp
@[simp] theorem Track.hysteresis_inhibited (x : EvalInputs) (tab : TrackTable) (t : Track) : (t.hysteresis x tab).inhibited = t.inhibited := by
  unfold Track.hysteresis; split <;> simp
@[simp] theorem Track.hysteresis_held (x : EvalInputs) (tab : TrackTable) (t : Track) : (t.hysteresis x tab).held = t.held := by
  unfold Track.hysteresis; split <;> simp
@[simp] theorem Track.hysteresis_level (x : EvalInputs) (tab : TrackTable) (t : Track) : (t.hysteresis x tab).level = t.level := by
  unfold Track.hysteresis; split <;> simp
@[simp] theorem Track.hysteresis_switches (x : EvalInputs) (tab : TrackTable) (t : Track) : (t.hysteresis x tab).switches = t.switches := by
  unfold Track.hysteresis; split <;> simp
@[simp] theorem Track.hysteresis_lastSwitch (x : EvalInputs) (tab : TrackTable) (t : Track) : (t.hysteresis x tab).lastSwitch = t.lastSwitch := by
  unfold Track.hysteresis; split <;> simp
@[simp] theorem Track.hysteresis_pin (x : EvalInputs) (tab : TrackTable) (t : Track) : (t.hysteresis x tab).pin = t.pin := by
  unfold Track.hysteresis; split <;> simp

/-! ### Track.output -/

@[simp] theorem Track.output_mode (x : EvalInputs) (t : Track) : (t.output x).mode = t.mode := rfl
@[simp] theorem Track.output_safe (x : EvalInputs) (t : Track) : (t.output x).safe = t.safe := rfl
@[simp] theorem Track.output_polarity (x : EvalInputs) (t : Track) : (t.output x).polarity = t.polarity := rfl
@[simp] theorem Track.output_stallInhibit (x : EvalInputs) (t : Track) : (t.output x).stallInhibit = t.stallInhibit :=
  rfl
@[simp] theorem Track.output_evaluated (x : EvalInputs) (t : Track) : (t.output x).evaluated = t.evaluated := rfl
@[simp] theorem Track.output_memory (x : EvalInputs) (t : Track) : (t.output x).memory = t.memory := rfl

/-! ### Track.evaluate -/

@[simp] theorem Track.evaluate_mode (x : EvalInputs) (tab : TrackTable) (t : Track) : (t.evaluate x tab).mode = t.mode := by
  unfold Track.evaluate; simp
@[simp] theorem Track.evaluate_safe (x : EvalInputs) (tab : TrackTable) (t : Track) : (t.evaluate x tab).safe = t.safe := by
  unfold Track.evaluate; simp
@[simp] theorem Track.evaluate_polarity (x : EvalInputs) (tab : TrackTable) (t : Track) : (t.evaluate x tab).polarity = t.polarity := by
  unfold Track.evaluate; simp
@[simp] theorem Track.evaluate_stallInhibit (x : EvalInputs) (tab : TrackTable) (t : Track) : (t.evaluate x tab).stallInhibit = t.stallInhibit := by
  unfold Track.evaluate; simp

/-! ### State.noteView -/

@[simp] theorem State.noteView_sample_inputs (s : State) : (s.noteView).sample.inputs = s.sample.inputs := rfl
@[simp] theorem State.noteView_sample_inSample (s : State) : (s.noteView).sample.inSample = s.sample.inSample := rfl

/-! ### State.jump -/

@[simp] theorem State.jump_pcu_axis (p : AbsPos) (s : State) : (s.jump p).pcu.axis = s.pcu.axis := rfl
@[simp] theorem State.jump_pcu_dir (p : AbsPos) (s : State) : (s.jump p).pcu.dir = s.pcu.dir := rfl
@[simp] theorem State.jump_tev_enable (p : AbsPos) (s : State) : (s.jump p).tev.enable = s.tev.enable := rfl

/-! ### State.swap -/

@[simp] theorem State.swap_cts_shadow (s : State) : (s.swap).cts.shadow = s.cts.shadow := rfl
@[simp] theorem State.swap_tev_enable (s : State) : (s.swap).tev.enable = s.tev.enable := rfl
@[simp] theorem State.swap_sample_inputs (s : State) : (s.swap).sample.inputs = s.sample.inputs := rfl
@[simp] theorem State.swap_sample_inSample (s : State) : (s.swap).sample.inSample = s.sample.inSample := rfl

/-! ### State.endSwapped -/

@[simp] theorem State.endSwapped_cts_shadow (c : Commit) (p : AbsPos) (s : State) : (s.endSwapped c p).cts.shadow = s.cts.shadow :=
  rfl
@[simp] theorem State.endSwapped_bsc_nextTicket (c : Commit) (p : AbsPos) (s : State) : (s.endSwapped c p).bsc.nextTicket = s.bsc.nextTicket :=
  rfl
@[simp] theorem State.endSwapped_tev_enable (c : Commit) (p : AbsPos) (s : State) : (s.endSwapped c p).tev.enable = s.tev.enable :=
  rfl
@[simp] theorem State.endSwapped_rsc_enable (c : Commit) (p : AbsPos) (s : State) : (s.endSwapped c p).rsc.enable = s.rsc.enable :=
  rfl
@[simp] theorem State.endSwapped_rsc_fresh (c : Commit) (p : AbsPos) (s : State) : (s.endSwapped c p).rsc.fresh = s.rsc.fresh :=
  rfl
@[simp] theorem State.endSwapped_rsc_intervalMs (c : Commit) (p : AbsPos) (s : State) : (s.endSwapped c p).rsc.intervalMs = s.rsc.intervalMs :=
  rfl
@[simp] theorem State.endSwapped_rsc_timer (c : Commit) (p : AbsPos) (s : State) : (s.endSwapped c p).rsc.timer = s.rsc.timer :=
  rfl
@[simp] theorem State.endSwapped_rsc_hello (c : Commit) (p : AbsPos) (s : State) : (s.endSwapped c p).rsc.hello = s.rsc.hello :=
  rfl
@[simp] theorem State.endSwapped_rsc_sync (c : Commit) (p : AbsPos) (s : State) : (s.endSwapped c p).rsc.sync = s.rsc.sync :=
  rfl
@[simp] theorem State.endSwapped_rsc_fault (c : Commit) (p : AbsPos) (s : State) : (s.endSwapped c p).rsc.fault = s.rsc.fault :=
  rfl
@[simp] theorem State.endSwapped_rsc_motion (c : Commit) (p : AbsPos) (s : State) : (s.endSwapped c p).rsc.motion = s.rsc.motion :=
  rfl
@[simp] theorem State.endSwapped_rsc_position (c : Commit) (p : AbsPos) (s : State) : (s.endSwapped c p).rsc.position = s.rsc.position :=
  rfl
@[simp] theorem State.endSwapped_rsc_credit (c : Commit) (p : AbsPos) (s : State) : (s.endSwapped c p).rsc.credit = s.rsc.credit :=
  rfl
@[simp] theorem State.endSwapped_rsc_seq (c : Commit) (p : AbsPos) (s : State) : (s.endSwapped c p).rsc.seq = s.rsc.seq :=
  rfl
@[simp] theorem State.endSwapped_sample_inputs (c : Commit) (p : AbsPos) (s : State) : (s.endSwapped c p).sample.inputs = s.sample.inputs :=
  rfl
@[simp] theorem State.endSwapped_sample_inSample (c : Commit) (p : AbsPos) (s : State) : (s.endSwapped c p).sample.inSample = s.sample.inSample :=
  rfl

/-! ### State.bscArrive -/

@[simp] theorem State.bscArrive_cts_shadow (p : AbsPos) (s : State) : (s.bscArrive p).cts.shadow = s.cts.shadow := by
  unfold State.bscArrive; (repeat' split) <;> rfl
@[simp] theorem State.bscArrive_bsc_nextTicket (p : AbsPos) (s : State) : (s.bscArrive p).bsc.nextTicket = s.bsc.nextTicket := by
  unfold State.bscArrive; (repeat' split) <;> rfl
@[simp] theorem State.bscArrive_tev_enable (p : AbsPos) (s : State) : (s.bscArrive p).tev.enable = s.tev.enable := by
  unfold State.bscArrive; (repeat' split) <;> rfl
@[simp] theorem State.bscArrive_rsc_enable (p : AbsPos) (s : State) : (s.bscArrive p).rsc.enable = s.rsc.enable := by
  unfold State.bscArrive; (repeat' split) <;> rfl
@[simp] theorem State.bscArrive_rsc_fresh (p : AbsPos) (s : State) : (s.bscArrive p).rsc.fresh = s.rsc.fresh := by
  unfold State.bscArrive; (repeat' split) <;> rfl
@[simp] theorem State.bscArrive_rsc_intervalMs (p : AbsPos) (s : State) : (s.bscArrive p).rsc.intervalMs = s.rsc.intervalMs := by
  unfold State.bscArrive; (repeat' split) <;> rfl
@[simp] theorem State.bscArrive_rsc_timer (p : AbsPos) (s : State) : (s.bscArrive p).rsc.timer = s.rsc.timer := by
  unfold State.bscArrive; (repeat' split) <;> rfl
@[simp] theorem State.bscArrive_rsc_hello (p : AbsPos) (s : State) : (s.bscArrive p).rsc.hello = s.rsc.hello := by
  unfold State.bscArrive; (repeat' split) <;> rfl
@[simp] theorem State.bscArrive_rsc_sync (p : AbsPos) (s : State) : (s.bscArrive p).rsc.sync = s.rsc.sync := by
  unfold State.bscArrive; (repeat' split) <;> rfl
@[simp] theorem State.bscArrive_rsc_fault (p : AbsPos) (s : State) : (s.bscArrive p).rsc.fault = s.rsc.fault := by
  unfold State.bscArrive; (repeat' split) <;> rfl
@[simp] theorem State.bscArrive_rsc_motion (p : AbsPos) (s : State) : (s.bscArrive p).rsc.motion = s.rsc.motion := by
  unfold State.bscArrive; (repeat' split) <;> rfl
@[simp] theorem State.bscArrive_rsc_position (p : AbsPos) (s : State) : (s.bscArrive p).rsc.position = s.rsc.position := by
  unfold State.bscArrive; (repeat' split) <;> rfl
@[simp] theorem State.bscArrive_rsc_credit (p : AbsPos) (s : State) : (s.bscArrive p).rsc.credit = s.rsc.credit := by
  unfold State.bscArrive; (repeat' split) <;> rfl
@[simp] theorem State.bscArrive_rsc_seq (p : AbsPos) (s : State) : (s.bscArrive p).rsc.seq = s.rsc.seq := by
  unfold State.bscArrive; (repeat' split) <;> rfl
@[simp] theorem State.bscArrive_sample_inputs (p : AbsPos) (s : State) : (s.bscArrive p).sample.inputs = s.sample.inputs := by
  unfold State.bscArrive; (repeat' split) <;> rfl
@[simp] theorem State.bscArrive_sample_inSample (p : AbsPos) (s : State) : (s.bscArrive p).sample.inSample = s.sample.inSample := by
  unfold State.bscArrive; (repeat' split) <;> rfl

/-! ### State.bscIndex -/

@[simp] theorem State.bscIndex_cts_shadow (s : State) : (s.bscIndex).cts.shadow = s.cts.shadow := by
  unfold State.bscIndex; (repeat' split) <;> rfl
@[simp] theorem State.bscIndex_bsc_nextTicket (s : State) : (s.bscIndex).bsc.nextTicket = s.bsc.nextTicket := by
  unfold State.bscIndex; (repeat' split) <;> rfl
@[simp] theorem State.bscIndex_tev_enable (s : State) : (s.bscIndex).tev.enable = s.tev.enable := by
  unfold State.bscIndex; (repeat' split) <;> rfl
@[simp] theorem State.bscIndex_rsc_enable (s : State) : (s.bscIndex).rsc.enable = s.rsc.enable := by
  unfold State.bscIndex; (repeat' split) <;> rfl
@[simp] theorem State.bscIndex_rsc_fresh (s : State) : (s.bscIndex).rsc.fresh = s.rsc.fresh := by
  unfold State.bscIndex; (repeat' split) <;> rfl
@[simp] theorem State.bscIndex_rsc_intervalMs (s : State) : (s.bscIndex).rsc.intervalMs = s.rsc.intervalMs := by
  unfold State.bscIndex; (repeat' split) <;> rfl
@[simp] theorem State.bscIndex_rsc_timer (s : State) : (s.bscIndex).rsc.timer = s.rsc.timer := by
  unfold State.bscIndex; (repeat' split) <;> rfl
@[simp] theorem State.bscIndex_rsc_hello (s : State) : (s.bscIndex).rsc.hello = s.rsc.hello := by
  unfold State.bscIndex; (repeat' split) <;> rfl
@[simp] theorem State.bscIndex_rsc_sync (s : State) : (s.bscIndex).rsc.sync = s.rsc.sync := by
  unfold State.bscIndex; (repeat' split) <;> rfl
@[simp] theorem State.bscIndex_rsc_fault (s : State) : (s.bscIndex).rsc.fault = s.rsc.fault := by
  unfold State.bscIndex; (repeat' split) <;> rfl
@[simp] theorem State.bscIndex_rsc_motion (s : State) : (s.bscIndex).rsc.motion = s.rsc.motion := by
  unfold State.bscIndex; (repeat' split) <;> rfl
@[simp] theorem State.bscIndex_rsc_position (s : State) : (s.bscIndex).rsc.position = s.rsc.position := by
  unfold State.bscIndex; (repeat' split) <;> rfl
@[simp] theorem State.bscIndex_rsc_credit (s : State) : (s.bscIndex).rsc.credit = s.rsc.credit := by
  unfold State.bscIndex; (repeat' split) <;> rfl
@[simp] theorem State.bscIndex_rsc_seq (s : State) : (s.bscIndex).rsc.seq = s.rsc.seq := by
  unfold State.bscIndex; (repeat' split) <;> rfl
@[simp] theorem State.bscIndex_sample_inputs (s : State) : (s.bscIndex).sample.inputs = s.sample.inputs := by
  unfold State.bscIndex; (repeat' split) <;> rfl
@[simp] theorem State.bscIndex_sample_inSample (s : State) : (s.bscIndex).sample.inSample = s.sample.inSample := by
  unfold State.bscIndex; (repeat' split) <;> rfl

/-! ### State.bscLeft -/

@[simp] theorem State.bscLeft_bsc_nextTicket (s : State) : (s.bscLeft).bsc.nextTicket = s.bsc.nextTicket := rfl
@[simp] theorem State.bscLeft_rsc_enable (s : State) : (s.bscLeft).rsc.enable = s.rsc.enable := by
  unfold State.bscLeft; (repeat' split) <;> rfl
@[simp] theorem State.bscLeft_rsc_fresh (s : State) : (s.bscLeft).rsc.fresh = s.rsc.fresh := by
  unfold State.bscLeft; (repeat' split) <;> rfl
@[simp] theorem State.bscLeft_rsc_intervalMs (s : State) : (s.bscLeft).rsc.intervalMs = s.rsc.intervalMs := by
  unfold State.bscLeft; (repeat' split) <;> rfl
@[simp] theorem State.bscLeft_rsc_timer (s : State) : (s.bscLeft).rsc.timer = s.rsc.timer := by
  unfold State.bscLeft; (repeat' split) <;> rfl
@[simp] theorem State.bscLeft_rsc_hello (s : State) : (s.bscLeft).rsc.hello = s.rsc.hello := by
  unfold State.bscLeft; (repeat' split) <;> rfl
@[simp] theorem State.bscLeft_rsc_sync (s : State) : (s.bscLeft).rsc.sync = s.rsc.sync := by
  unfold State.bscLeft; (repeat' split) <;> rfl
@[simp] theorem State.bscLeft_rsc_fault (s : State) : (s.bscLeft).rsc.fault = s.rsc.fault := by
  unfold State.bscLeft; (repeat' split) <;> rfl
@[simp] theorem State.bscLeft_rsc_motion (s : State) : (s.bscLeft).rsc.motion = s.rsc.motion := by
  unfold State.bscLeft; (repeat' split) <;> rfl
@[simp] theorem State.bscLeft_rsc_position (s : State) : (s.bscLeft).rsc.position = s.rsc.position := by
  unfold State.bscLeft; (repeat' split) <;> rfl
@[simp] theorem State.bscLeft_rsc_credit (s : State) : (s.bscLeft).rsc.credit = s.rsc.credit := by
  unfold State.bscLeft; (repeat' split) <;> rfl
@[simp] theorem State.bscLeft_rsc_seq (s : State) : (s.bscLeft).rsc.seq = s.rsc.seq := by
  unfold State.bscLeft; (repeat' split) <;> rfl

/-! ### State.changeSync -/

@[simp] theorem State.changeSync_rft_configured (n : Sync) (c : SyncCause) (s : State) : (s.changeSync n c).rft.configured = s.rft.configured :=
  rfl
@[simp] theorem State.changeSync_rft_inForce (n : Sync) (c : SyncCause) (s : State) : (s.changeSync n c).rft.inForce = s.rft.inForce :=
  rfl
@[simp] theorem State.changeSync_rsc_enable (n : Sync) (c : SyncCause) (s : State) : (s.changeSync n c).rsc.enable = s.rsc.enable :=
  rfl
@[simp] theorem State.changeSync_rsc_intervalMs (n : Sync) (c : SyncCause) (s : State) : (s.changeSync n c).rsc.intervalMs = s.rsc.intervalMs :=
  rfl
@[simp] theorem State.changeSync_rsc_timer (n : Sync) (c : SyncCause) (s : State) : (s.changeSync n c).rsc.timer = s.rsc.timer :=
  rfl
@[simp] theorem State.changeSync_rsc_hello (n : Sync) (c : SyncCause) (s : State) : (s.changeSync n c).rsc.hello = s.rsc.hello :=
  rfl
@[simp] theorem State.changeSync_rsc_fault (n : Sync) (c : SyncCause) (s : State) : (s.changeSync n c).rsc.fault = s.rsc.fault :=
  rfl
@[simp] theorem State.changeSync_rsc_motion (n : Sync) (c : SyncCause) (s : State) : (s.changeSync n c).rsc.motion = s.rsc.motion :=
  rfl
@[simp] theorem State.changeSync_rsc_position (n : Sync) (c : SyncCause) (s : State) : (s.changeSync n c).rsc.position = s.rsc.position :=
  rfl
@[simp] theorem State.changeSync_rsc_inFlight (n : Sync) (c : SyncCause) (s : State) : (s.changeSync n c).rsc.inFlight = s.rsc.inFlight :=
  rfl
@[simp] theorem State.changeSync_rsc_waiting (n : Sync) (c : SyncCause) (s : State) : (s.changeSync n c).rsc.waiting = s.rsc.waiting :=
  rfl
@[simp] theorem State.changeSync_rsc_credit (n : Sync) (c : SyncCause) (s : State) : (s.changeSync n c).rsc.credit = s.rsc.credit :=
  rfl
@[simp] theorem State.changeSync_rsc_seq (n : Sync) (c : SyncCause) (s : State) : (s.changeSync n c).rsc.seq = s.rsc.seq :=
  rfl
@[simp] theorem State.changeSync_sample_inputs (n : Sync) (c : SyncCause) (s : State) : (s.changeSync n c).sample.inputs = s.sample.inputs :=
  rfl
@[simp] theorem State.changeSync_sample_inSample (n : Sync) (c : SyncCause) (s : State) : (s.changeSync n c).sample.inSample = s.sample.inSample :=
  rfl

/-! ### State.failSeek -/

@[simp] theorem State.failSeek_rft_configured (r : SeekRecord) (o : EndOutcome) (c : SyncCause) (s : State) : (s.failSeek r o c).rft.configured = s.rft.configured :=
  rfl
@[simp] theorem State.failSeek_rft_inForce (r : SeekRecord) (o : EndOutcome) (c : SyncCause) (s : State) : (s.failSeek r o c).rft.inForce = s.rft.inForce :=
  rfl
@[simp] theorem State.failSeek_rsc_enable (r : SeekRecord) (o : EndOutcome) (c : SyncCause) (s : State) : (s.failSeek r o c).rsc.enable = s.rsc.enable :=
  rfl
@[simp] theorem State.failSeek_rsc_intervalMs (r : SeekRecord) (o : EndOutcome) (c : SyncCause) (s : State) : (s.failSeek r o c).rsc.intervalMs = s.rsc.intervalMs :=
  rfl
@[simp] theorem State.failSeek_rsc_timer (r : SeekRecord) (o : EndOutcome) (c : SyncCause) (s : State) : (s.failSeek r o c).rsc.timer = s.rsc.timer :=
  rfl
@[simp] theorem State.failSeek_rsc_hello (r : SeekRecord) (o : EndOutcome) (c : SyncCause) (s : State) : (s.failSeek r o c).rsc.hello = s.rsc.hello :=
  rfl
@[simp] theorem State.failSeek_rsc_fault (r : SeekRecord) (o : EndOutcome) (c : SyncCause) (s : State) : (s.failSeek r o c).rsc.fault = s.rsc.fault :=
  rfl
@[simp] theorem State.failSeek_rsc_motion (r : SeekRecord) (o : EndOutcome) (c : SyncCause) (s : State) : (s.failSeek r o c).rsc.motion = s.rsc.motion :=
  rfl
@[simp] theorem State.failSeek_rsc_position (r : SeekRecord) (o : EndOutcome) (c : SyncCause) (s : State) : (s.failSeek r o c).rsc.position = s.rsc.position :=
  rfl
@[simp] theorem State.failSeek_rsc_credit (r : SeekRecord) (o : EndOutcome) (c : SyncCause) (s : State) : (s.failSeek r o c).rsc.credit = s.rsc.credit :=
  rfl
@[simp] theorem State.failSeek_rsc_seq (r : SeekRecord) (o : EndOutcome) (c : SyncCause) (s : State) : (s.failSeek r o c).rsc.seq = s.rsc.seq :=
  rfl
@[simp] theorem State.failSeek_sample_inputs (r : SeekRecord) (o : EndOutcome) (c : SyncCause) (s : State) : (s.failSeek r o c).sample.inputs = s.sample.inputs :=
  rfl
@[simp] theorem State.failSeek_sample_inSample (r : SeekRecord) (o : EndOutcome) (c : SyncCause) (s : State) : (s.failSeek r o c).sample.inSample = s.sample.inSample :=
  rfl

/-! ### State.lock -/

@[simp] theorem State.lock_pcu_axis (r : SeekRecord) (s : State) : (s.lock r).pcu.axis = s.pcu.axis := rfl
@[simp] theorem State.lock_pcu_dir (r : SeekRecord) (s : State) : (s.lock r).pcu.dir = s.pcu.dir := rfl
@[simp] theorem State.lock_rft_configured (r : SeekRecord) (s : State) : (s.lock r).rft.configured = s.rft.configured :=
  rfl
@[simp] theorem State.lock_tev_enable (r : SeekRecord) (s : State) : (s.lock r).tev.enable = s.tev.enable := rfl
@[simp] theorem State.lock_rsc_enable (r : SeekRecord) (s : State) : (s.lock r).rsc.enable = s.rsc.enable := rfl
@[simp] theorem State.lock_rsc_intervalMs (r : SeekRecord) (s : State) : (s.lock r).rsc.intervalMs = s.rsc.intervalMs :=
  rfl
@[simp] theorem State.lock_rsc_timer (r : SeekRecord) (s : State) : (s.lock r).rsc.timer = s.rsc.timer := rfl
@[simp] theorem State.lock_rsc_hello (r : SeekRecord) (s : State) : (s.lock r).rsc.hello = s.rsc.hello := rfl
@[simp] theorem State.lock_rsc_fault (r : SeekRecord) (s : State) : (s.lock r).rsc.fault = s.rsc.fault := rfl
@[simp] theorem State.lock_rsc_motion (r : SeekRecord) (s : State) : (s.lock r).rsc.motion = s.rsc.motion := rfl
@[simp] theorem State.lock_rsc_position (r : SeekRecord) (s : State) : (s.lock r).rsc.position = s.rsc.position := rfl
@[simp] theorem State.lock_rsc_credit (r : SeekRecord) (s : State) : (s.lock r).rsc.credit = s.rsc.credit := rfl
@[simp] theorem State.lock_rsc_seq (r : SeekRecord) (s : State) : (s.lock r).rsc.seq = s.rsc.seq := rfl
@[simp] theorem State.lock_sample_inputs (r : SeekRecord) (s : State) : (s.lock r).sample.inputs = s.sample.inputs :=
  rfl
@[simp] theorem State.lock_sample_inSample (r : SeekRecord) (s : State) : (s.lock r).sample.inSample = s.sample.inSample :=
  rfl

/-! ### State.evaluate -/

@[simp] theorem State.evaluate_tev_enable (s : State) : (s.evaluate).tev.enable = s.tev.enable := rfl

/-! ### State.tsuStep -/

@[simp] theorem State.tsuStep_rsc_enable (d : Dir) (s : State) : (s.tsuStep d).rsc.enable = s.rsc.enable := rfl
@[simp] theorem State.tsuStep_rsc_motion (d : Dir) (s : State) : (s.tsuStep d).rsc.motion = s.rsc.motion := rfl
@[simp] theorem State.tsuStep_rsc_intervalMs (d : Dir) (s : State) : (s.tsuStep d).rsc.intervalMs = s.rsc.intervalMs :=
  rfl
@[simp] theorem State.tsuStep_rsc_timer (d : Dir) (s : State) : (s.tsuStep d).rsc.timer = s.rsc.timer := rfl
@[simp] theorem State.tsuStep_rsc_hello (d : Dir) (s : State) : (s.tsuStep d).rsc.hello = s.rsc.hello := rfl
@[simp] theorem State.tsuStep_rsc_sync (d : Dir) (s : State) : (s.tsuStep d).rsc.sync = s.rsc.sync := rfl
@[simp] theorem State.tsuStep_rsc_fault (d : Dir) (s : State) : (s.tsuStep d).rsc.fault = s.rsc.fault := rfl
@[simp] theorem State.tsuStep_rsc_position (d : Dir) (s : State) : (s.tsuStep d).rsc.position = s.rsc.position := rfl
@[simp] theorem State.tsuStep_rsc_inFlight (d : Dir) (s : State) : (s.tsuStep d).rsc.inFlight = s.rsc.inFlight := rfl
@[simp] theorem State.tsuStep_rsc_waiting (d : Dir) (s : State) : (s.tsuStep d).rsc.waiting = s.rsc.waiting := rfl
@[simp] theorem State.tsuStep_rsc_credit (d : Dir) (s : State) : (s.tsuStep d).rsc.credit = s.rsc.credit := rfl
@[simp] theorem State.tsuStep_rsc_seq (d : Dir) (s : State) : (s.tsuStep d).rsc.seq = s.rsc.seq := rfl
@[simp] theorem State.tsuStep_tsu_timebase (d : Dir) (s : State) : (s.tsuStep d).tsu.timebase = s.tsu.timebase := by
  unfold State.tsuStep; split <;> simp
@[simp] theorem State.tsuStep_tsu_ticking (d : Dir) (s : State) : (s.tsuStep d).tsu.ticking = s.tsu.ticking := by
  unfold State.tsuStep; split <;> simp
@[simp] theorem State.tsuStep_tsu_depth (d : Dir) (s : State) : (s.tsuStep d).tsu.depth = s.tsu.depth := by
  unfold State.tsuStep; split <;> simp
@[simp] theorem State.tsuStep_tsu_stallMs (d : Dir) (s : State) : (s.tsuStep d).tsu.stallMs = s.tsu.stallMs := by
  unfold State.tsuStep; split <;> simp
@[simp] theorem State.tsuStep_tsu_overspeedLimit (d : Dir) (s : State) : (s.tsuStep d).tsu.overspeedLimit = s.tsu.overspeedLimit := by
  unfold State.tsuStep; split <;> simp

/-! ### State.enterStall -/

@[simp] theorem State.enterStall_rsc_enable (s : State) : (s.enterStall).rsc.enable = s.rsc.enable := rfl
@[simp] theorem State.enterStall_rsc_motion (s : State) : (s.enterStall).rsc.motion = s.rsc.motion := rfl
@[simp] theorem State.enterStall_rsc_intervalMs (s : State) : (s.enterStall).rsc.intervalMs = s.rsc.intervalMs := rfl
@[simp] theorem State.enterStall_rsc_timer (s : State) : (s.enterStall).rsc.timer = s.rsc.timer := rfl
@[simp] theorem State.enterStall_rsc_hello (s : State) : (s.enterStall).rsc.hello = s.rsc.hello := rfl
@[simp] theorem State.enterStall_rsc_sync (s : State) : (s.enterStall).rsc.sync = s.rsc.sync := rfl
@[simp] theorem State.enterStall_rsc_fault (s : State) : (s.enterStall).rsc.fault = s.rsc.fault := rfl
@[simp] theorem State.enterStall_rsc_position (s : State) : (s.enterStall).rsc.position = s.rsc.position := rfl
@[simp] theorem State.enterStall_rsc_inFlight (s : State) : (s.enterStall).rsc.inFlight = s.rsc.inFlight := rfl
@[simp] theorem State.enterStall_rsc_waiting (s : State) : (s.enterStall).rsc.waiting = s.rsc.waiting := rfl
@[simp] theorem State.enterStall_rsc_credit (s : State) : (s.enterStall).rsc.credit = s.rsc.credit := rfl
@[simp] theorem State.enterStall_rsc_seq (s : State) : (s.enterStall).rsc.seq = s.rsc.seq := rfl
@[simp] theorem State.enterStall_tsu_timebase (s : State) : (s.enterStall).tsu.timebase = s.tsu.timebase := by
  unfold State.enterStall; simp
@[simp] theorem State.enterStall_tsu_ticking (s : State) : (s.enterStall).tsu.ticking = s.tsu.ticking := by
  unfold State.enterStall; simp
@[simp] theorem State.enterStall_tsu_lastDir (s : State) : (s.enterStall).tsu.lastDir = s.tsu.lastDir := by
  unfold State.enterStall; simp
@[simp] theorem State.enterStall_tsu_depth (s : State) : (s.enterStall).tsu.depth = s.tsu.depth := by
  unfold State.enterStall; simp
@[simp] theorem State.enterStall_tsu_stallMs (s : State) : (s.enterStall).tsu.stallMs = s.tsu.stallMs := by
  unfold State.enterStall; simp
@[simp] theorem State.enterStall_tsu_overspeedLimit (s : State) : (s.enterStall).tsu.overspeedLimit = s.tsu.overspeedLimit := by
  unfold State.enterStall; simp

/-! ### State.decay -/

@[simp] theorem State.decay_rsc_enable (s : State) : (s.decay).rsc.enable = s.rsc.enable := rfl
@[simp] theorem State.decay_rsc_motion (s : State) : (s.decay).rsc.motion = s.rsc.motion := rfl
@[simp] theorem State.decay_rsc_intervalMs (s : State) : (s.decay).rsc.intervalMs = s.rsc.intervalMs := rfl
@[simp] theorem State.decay_rsc_timer (s : State) : (s.decay).rsc.timer = s.rsc.timer := rfl
@[simp] theorem State.decay_rsc_hello (s : State) : (s.decay).rsc.hello = s.rsc.hello := rfl
@[simp] theorem State.decay_rsc_sync (s : State) : (s.decay).rsc.sync = s.rsc.sync := rfl
@[simp] theorem State.decay_rsc_fault (s : State) : (s.decay).rsc.fault = s.rsc.fault := rfl
@[simp] theorem State.decay_rsc_position (s : State) : (s.decay).rsc.position = s.rsc.position := rfl
@[simp] theorem State.decay_rsc_inFlight (s : State) : (s.decay).rsc.inFlight = s.rsc.inFlight := rfl
@[simp] theorem State.decay_rsc_waiting (s : State) : (s.decay).rsc.waiting = s.rsc.waiting := rfl
@[simp] theorem State.decay_rsc_credit (s : State) : (s.decay).rsc.credit = s.rsc.credit := rfl
@[simp] theorem State.decay_rsc_seq (s : State) : (s.decay).rsc.seq = s.rsc.seq := rfl
@[simp] theorem State.decay_tsu_timebase (s : State) : (s.decay).tsu.timebase = s.tsu.timebase := by
  unfold State.decay; simp
@[simp] theorem State.decay_tsu_ticking (s : State) : (s.decay).tsu.ticking = s.tsu.ticking := by
  unfold State.decay; simp
@[simp] theorem State.decay_tsu_history (s : State) : (s.decay).tsu.history = s.tsu.history := by
  unfold State.decay; simp
@[simp] theorem State.decay_tsu_lastDir (s : State) : (s.decay).tsu.lastDir = s.tsu.lastDir := by
  unfold State.decay; simp
@[simp] theorem State.decay_tsu_estimate (s : State) : (s.decay).tsu.estimate = s.tsu.estimate := by
  unfold State.decay; simp
@[simp] theorem State.decay_tsu_stalled (s : State) : (s.decay).tsu.stalled = s.tsu.stalled := by
  unfold State.decay; simp
@[simp] theorem State.decay_tsu_depth (s : State) : (s.decay).tsu.depth = s.tsu.depth := by unfold State.decay; simp
@[simp] theorem State.decay_tsu_stallMs (s : State) : (s.decay).tsu.stallMs = s.tsu.stallMs := by
  unfold State.decay; simp
@[simp] theorem State.decay_tsu_overspeedLimit (s : State) : (s.decay).tsu.overspeedLimit = s.tsu.overspeedLimit := by
  unfold State.decay; simp

/-! ### State.setSpeed -/

@[simp] theorem State.setSpeed_tsu_timebase (n m l : Nat) (s : State) : (s.setSpeed n m l).tsu.timebase = s.tsu.timebase := by
  unfold State.setSpeed; dsimp only; (repeat' split) <;> simp
@[simp] theorem State.setSpeed_tsu_ticking (n m l : Nat) (s : State) : (s.setSpeed n m l).tsu.ticking = s.tsu.ticking := by
  unfold State.setSpeed; dsimp only; (repeat' split) <;> simp
@[simp] theorem State.setSpeed_tsu_lastDir (n m l : Nat) (s : State) : (s.setSpeed n m l).tsu.lastDir = s.tsu.lastDir := by
  unfold State.setSpeed; dsimp only; (repeat' split) <;> simp
@[simp] theorem State.setSpeed_rsc_enable (n m l : Nat) (s : State) : (s.setSpeed n m l).rsc.enable = s.rsc.enable := by
  unfold State.setSpeed; dsimp only; (repeat' split) <;> simp
@[simp] theorem State.setSpeed_rsc_motion (n m l : Nat) (s : State) : (s.setSpeed n m l).rsc.motion = s.rsc.motion := by
  unfold State.setSpeed; dsimp only; (repeat' split) <;> simp
@[simp] theorem State.setSpeed_rsc_intervalMs (n m l : Nat) (s : State) : (s.setSpeed n m l).rsc.intervalMs = s.rsc.intervalMs := by
  unfold State.setSpeed; dsimp only; (repeat' split) <;> simp
@[simp] theorem State.setSpeed_rsc_timer (n m l : Nat) (s : State) : (s.setSpeed n m l).rsc.timer = s.rsc.timer := by
  unfold State.setSpeed; dsimp only; (repeat' split) <;> simp
@[simp] theorem State.setSpeed_rsc_hello (n m l : Nat) (s : State) : (s.setSpeed n m l).rsc.hello = s.rsc.hello := by
  unfold State.setSpeed; dsimp only; (repeat' split) <;> simp
@[simp] theorem State.setSpeed_rsc_sync (n m l : Nat) (s : State) : (s.setSpeed n m l).rsc.sync = s.rsc.sync := by
  unfold State.setSpeed; dsimp only; (repeat' split) <;> simp
@[simp] theorem State.setSpeed_rsc_fault (n m l : Nat) (s : State) : (s.setSpeed n m l).rsc.fault = s.rsc.fault := by
  unfold State.setSpeed; dsimp only; (repeat' split) <;> simp
@[simp] theorem State.setSpeed_rsc_position (n m l : Nat) (s : State) : (s.setSpeed n m l).rsc.position = s.rsc.position := by
  unfold State.setSpeed; dsimp only; (repeat' split) <;> simp
@[simp] theorem State.setSpeed_rsc_inFlight (n m l : Nat) (s : State) : (s.setSpeed n m l).rsc.inFlight = s.rsc.inFlight := by
  unfold State.setSpeed; dsimp only; (repeat' split) <;> simp
@[simp] theorem State.setSpeed_rsc_waiting (n m l : Nat) (s : State) : (s.setSpeed n m l).rsc.waiting = s.rsc.waiting := by
  unfold State.setSpeed; dsimp only; (repeat' split) <;> simp
@[simp] theorem State.setSpeed_rsc_credit (n m l : Nat) (s : State) : (s.setSpeed n m l).rsc.credit = s.rsc.credit := by
  unfold State.setSpeed; dsimp only; (repeat' split) <;> simp
@[simp] theorem State.setSpeed_rsc_seq (n m l : Nat) (s : State) : (s.setSpeed n m l).rsc.seq = s.rsc.seq := by
  unfold State.setSpeed; dsimp only; (repeat' split) <;> simp

/-! ### State.captureEdge -/

@[simp] theorem State.captureEdge_rsc_enable (n : Fin 4) (k : EdgeKind) (v : View) (s : State) : (s.captureEdge n k v).rsc.enable = s.rsc.enable := by
  unfold State.captureEdge; split <;> simp
@[simp] theorem State.captureEdge_rsc_fault (n : Fin 4) (k : EdgeKind) (v : View) (s : State) : (s.captureEdge n k v).rsc.fault = s.rsc.fault := by
  unfold State.captureEdge; split <;> simp
@[simp] theorem State.captureEdge_rsc_intervalMs (n : Fin 4) (k : EdgeKind) (v : View) (s : State) : (s.captureEdge n k v).rsc.intervalMs = s.rsc.intervalMs := by
  unfold State.captureEdge; split <;> simp
@[simp] theorem State.captureEdge_rsc_timer (n : Fin 4) (k : EdgeKind) (v : View) (s : State) : (s.captureEdge n k v).rsc.timer = s.rsc.timer := by
  unfold State.captureEdge; split <;> simp
@[simp] theorem State.captureEdge_rsc_hello (n : Fin 4) (k : EdgeKind) (v : View) (s : State) : (s.captureEdge n k v).rsc.hello = s.rsc.hello := by
  unfold State.captureEdge; split <;> simp
@[simp] theorem State.captureEdge_rsc_sync (n : Fin 4) (k : EdgeKind) (v : View) (s : State) : (s.captureEdge n k v).rsc.sync = s.rsc.sync := by
  unfold State.captureEdge; split <;> simp
@[simp] theorem State.captureEdge_rsc_motion (n : Fin 4) (k : EdgeKind) (v : View) (s : State) : (s.captureEdge n k v).rsc.motion = s.rsc.motion := by
  unfold State.captureEdge; split <;> simp
@[simp] theorem State.captureEdge_rsc_position (n : Fin 4) (k : EdgeKind) (v : View) (s : State) : (s.captureEdge n k v).rsc.position = s.rsc.position := by
  unfold State.captureEdge; split <;> simp
@[simp] theorem State.captureEdge_rsc_inFlight (n : Fin 4) (k : EdgeKind) (v : View) (s : State) : (s.captureEdge n k v).rsc.inFlight = s.rsc.inFlight := by
  unfold State.captureEdge; split <;> simp
@[simp] theorem State.captureEdge_rsc_waiting (n : Fin 4) (k : EdgeKind) (v : View) (s : State) : (s.captureEdge n k v).rsc.waiting = s.rsc.waiting := by
  unfold State.captureEdge; split <;> simp
@[simp] theorem State.captureEdge_rsc_credit (n : Fin 4) (k : EdgeKind) (v : View) (s : State) : (s.captureEdge n k v).rsc.credit = s.rsc.credit := by
  unfold State.captureEdge; split <;> simp
@[simp] theorem State.captureEdge_rsc_seq (n : Fin 4) (k : EdgeKind) (v : View) (s : State) : (s.captureEdge n k v).rsc.seq = s.rsc.seq := by
  unfold State.captureEdge; split <;> simp

/-! ### State.takeSettlingEnd -/

@[simp] theorem State.takeSettlingEnd_qdu_a (s : State) : (s.takeSettlingEnd).qdu.a = s.qdu.a := rfl
@[simp] theorem State.takeSettlingEnd_qdu_b (s : State) : (s.takeSettlingEnd).qdu.b = s.qdu.b := rfl
@[simp] theorem State.takeSettlingEnd_qdu_z (s : State) : (s.takeSettlingEnd).qdu.z = s.qdu.z := rfl
@[simp] theorem State.takeSettlingEnd_qdu_quadErrors (s : State) : (s.takeSettlingEnd).qdu.quadErrors = s.qdu.quadErrors :=
  rfl

/-! ### State.takeLatchSettlingEnd -/

@[simp] theorem State.takeLatchSettlingEnd_lcu_queue (n : Fin 4) (s : State) : (s.takeLatchSettlingEnd n).lcu.queue = s.lcu.queue :=
  rfl
@[simp] theorem State.takeLatchSettlingEnd_lcu_tally (n : Fin 4) (s : State) : (s.takeLatchSettlingEnd n).lcu.tally = s.lcu.tally :=
  rfl

/-! ### State.takeHoldoffEnd -/

@[simp] theorem State.takeHoldoffEnd_lcu_queue (n : Fin 4) (s : State) : (s.takeHoldoffEnd n).lcu.queue = s.lcu.queue :=
  rfl
@[simp] theorem State.takeHoldoffEnd_lcu_tally (n : Fin 4) (s : State) : (s.takeHoldoffEnd n).lcu.tally = s.lcu.tally :=
  rfl

/-! ### State.indexError -/

@[simp] theorem State.indexError_rft_configured (k : FaultKind) (r : RefRecord) (s : State) : (s.indexError k r).rft.configured = s.rft.configured := by
  unfold State.indexError; dsimp only; (repeat' split) <;> simp
@[simp] theorem State.indexError_rft_inForce (k : FaultKind) (r : RefRecord) (s : State) : (s.indexError k r).rft.inForce = s.rft.inForce := by
  unfold State.indexError; dsimp only; (repeat' split) <;> simp
@[simp] theorem State.indexError_rsc_enable (k : FaultKind) (r : RefRecord) (s : State) : (s.indexError k r).rsc.enable = s.rsc.enable := by
  unfold State.indexError; dsimp only; (repeat' split) <;> simp
@[simp] theorem State.indexError_rsc_fault (k : FaultKind) (r : RefRecord) (s : State) : (s.indexError k r).rsc.fault = s.rsc.fault := by
  unfold State.indexError; dsimp only; (repeat' split) <;> simp
@[simp] theorem State.indexError_rsc_intervalMs (k : FaultKind) (r : RefRecord) (s : State) : (s.indexError k r).rsc.intervalMs = s.rsc.intervalMs := by
  unfold State.indexError; dsimp only; (repeat' split) <;> simp
@[simp] theorem State.indexError_rsc_timer (k : FaultKind) (r : RefRecord) (s : State) : (s.indexError k r).rsc.timer = s.rsc.timer := by
  unfold State.indexError; dsimp only; (repeat' split) <;> simp
@[simp] theorem State.indexError_rsc_hello (k : FaultKind) (r : RefRecord) (s : State) : (s.indexError k r).rsc.hello = s.rsc.hello := by
  unfold State.indexError; dsimp only; (repeat' split) <;> simp
@[simp] theorem State.indexError_rsc_motion (k : FaultKind) (r : RefRecord) (s : State) : (s.indexError k r).rsc.motion = s.rsc.motion := by
  unfold State.indexError; dsimp only; (repeat' split) <;> simp
@[simp] theorem State.indexError_rsc_position (k : FaultKind) (r : RefRecord) (s : State) : (s.indexError k r).rsc.position = s.rsc.position := by
  unfold State.indexError; dsimp only; (repeat' split) <;> simp
@[simp] theorem State.indexError_rsc_inFlight (k : FaultKind) (r : RefRecord) (s : State) : (s.indexError k r).rsc.inFlight = s.rsc.inFlight := by
  unfold State.indexError; dsimp only; (repeat' split) <;> simp
@[simp] theorem State.indexError_rsc_waiting (k : FaultKind) (r : RefRecord) (s : State) : (s.indexError k r).rsc.waiting = s.rsc.waiting := by
  unfold State.indexError; dsimp only; (repeat' split) <;> simp
@[simp] theorem State.indexError_rsc_credit (k : FaultKind) (r : RefRecord) (s : State) : (s.indexError k r).rsc.credit = s.rsc.credit := by
  unfold State.indexError; dsimp only; (repeat' split) <;> simp
@[simp] theorem State.indexError_rsc_seq (k : FaultKind) (r : RefRecord) (s : State) : (s.indexError k r).rsc.seq = s.rsc.seq := by
  unfold State.indexError; dsimp only; (repeat' split) <;> simp
@[simp] theorem State.indexError_sample_inputs (k : FaultKind) (r : RefRecord) (s : State) : (s.indexError k r).sample.inputs = s.sample.inputs := by
  unfold State.indexError; dsimp only; (repeat' split) <;> simp
@[simp] theorem State.indexError_sample_inSample (k : FaultKind) (r : RefRecord) (s : State) : (s.indexError k r).sample.inSample = s.sample.inSample := by
  unfold State.indexError; dsimp only; (repeat' split) <;> simp

/-! ### State.rftStep -/

@[simp] theorem State.rftStep_rft_configured (s : State) : (s.rftStep).rft.configured = s.rft.configured := by
  unfold State.rftStep; (repeat' split) <;> first | rfl | simp
@[simp] theorem State.rftStep_rft_inForce (s : State) : (s.rftStep).rft.inForce = s.rft.inForce := by
  unfold State.rftStep; (repeat' split) <;> first | rfl | simp
@[simp] theorem State.rftStep_rsc_enable (s : State) : (s.rftStep).rsc.enable = s.rsc.enable := by
  unfold State.rftStep; (repeat' split) <;> first | rfl | simp
@[simp] theorem State.rftStep_rsc_fault (s : State) : (s.rftStep).rsc.fault = s.rsc.fault := by
  unfold State.rftStep; (repeat' split) <;> first | rfl | simp
@[simp] theorem State.rftStep_rsc_intervalMs (s : State) : (s.rftStep).rsc.intervalMs = s.rsc.intervalMs := by
  unfold State.rftStep; (repeat' split) <;> first | rfl | simp
@[simp] theorem State.rftStep_rsc_timer (s : State) : (s.rftStep).rsc.timer = s.rsc.timer := by
  unfold State.rftStep; (repeat' split) <;> first | rfl | simp
@[simp] theorem State.rftStep_rsc_hello (s : State) : (s.rftStep).rsc.hello = s.rsc.hello := by
  unfold State.rftStep; (repeat' split) <;> first | rfl | simp
@[simp] theorem State.rftStep_rsc_motion (s : State) : (s.rftStep).rsc.motion = s.rsc.motion := by
  unfold State.rftStep; (repeat' split) <;> first | rfl | simp
@[simp] theorem State.rftStep_rsc_position (s : State) : (s.rftStep).rsc.position = s.rsc.position := by
  unfold State.rftStep; (repeat' split) <;> first | rfl | simp
@[simp] theorem State.rftStep_rsc_credit (s : State) : (s.rftStep).rsc.credit = s.rsc.credit := by
  unfold State.rftStep; (repeat' split) <;> first | rfl | simp
@[simp] theorem State.rftStep_rsc_seq (s : State) : (s.rftStep).rsc.seq = s.rsc.seq := by
  unfold State.rftStep; (repeat' split) <;> first | rfl | simp
@[simp] theorem State.rftStep_sample_inputs (s : State) : (s.rftStep).sample.inputs = s.sample.inputs := by
  unfold State.rftStep; (repeat' split) <;> first | rfl | simp
@[simp] theorem State.rftStep_sample_inSample (s : State) : (s.rftStep).sample.inSample = s.sample.inSample := by
  unfold State.rftStep; (repeat' split) <;> first | rfl | simp

/-! ### State.bscArriveKept -/

@[simp] theorem State.bscArriveKept_cts_shadow (p : Option AbsPos) (s : State) : (s.bscArriveKept p).cts.shadow = s.cts.shadow := by
  unfold State.bscArriveKept; split <;> simp
@[simp] theorem State.bscArriveKept_bsc_nextTicket (p : Option AbsPos) (s : State) : (s.bscArriveKept p).bsc.nextTicket = s.bsc.nextTicket := by
  unfold State.bscArriveKept; split <;> simp
@[simp] theorem State.bscArriveKept_tev_enable (p : Option AbsPos) (s : State) : (s.bscArriveKept p).tev.enable = s.tev.enable := by
  unfold State.bscArriveKept; split <;> simp
@[simp] theorem State.bscArriveKept_rsc_enable (p : Option AbsPos) (s : State) : (s.bscArriveKept p).rsc.enable = s.rsc.enable := by
  unfold State.bscArriveKept; split <;> simp
@[simp] theorem State.bscArriveKept_rsc_fresh (p : Option AbsPos) (s : State) : (s.bscArriveKept p).rsc.fresh = s.rsc.fresh := by
  unfold State.bscArriveKept; split <;> simp
@[simp] theorem State.bscArriveKept_rsc_intervalMs (p : Option AbsPos) (s : State) : (s.bscArriveKept p).rsc.intervalMs = s.rsc.intervalMs := by
  unfold State.bscArriveKept; split <;> simp
@[simp] theorem State.bscArriveKept_rsc_timer (p : Option AbsPos) (s : State) : (s.bscArriveKept p).rsc.timer = s.rsc.timer := by
  unfold State.bscArriveKept; split <;> simp
@[simp] theorem State.bscArriveKept_rsc_hello (p : Option AbsPos) (s : State) : (s.bscArriveKept p).rsc.hello = s.rsc.hello := by
  unfold State.bscArriveKept; split <;> simp
@[simp] theorem State.bscArriveKept_rsc_sync (p : Option AbsPos) (s : State) : (s.bscArriveKept p).rsc.sync = s.rsc.sync := by
  unfold State.bscArriveKept; split <;> simp
@[simp] theorem State.bscArriveKept_rsc_fault (p : Option AbsPos) (s : State) : (s.bscArriveKept p).rsc.fault = s.rsc.fault := by
  unfold State.bscArriveKept; split <;> simp
@[simp] theorem State.bscArriveKept_rsc_motion (p : Option AbsPos) (s : State) : (s.bscArriveKept p).rsc.motion = s.rsc.motion := by
  unfold State.bscArriveKept; split <;> simp
@[simp] theorem State.bscArriveKept_rsc_position (p : Option AbsPos) (s : State) : (s.bscArriveKept p).rsc.position = s.rsc.position := by
  unfold State.bscArriveKept; split <;> simp
@[simp] theorem State.bscArriveKept_rsc_credit (p : Option AbsPos) (s : State) : (s.bscArriveKept p).rsc.credit = s.rsc.credit := by
  unfold State.bscArriveKept; split <;> simp
@[simp] theorem State.bscArriveKept_rsc_seq (p : Option AbsPos) (s : State) : (s.bscArriveKept p).rsc.seq = s.rsc.seq := by
  unfold State.bscArriveKept; split <;> simp
@[simp] theorem State.bscArriveKept_sample_inputs (p : Option AbsPos) (s : State) : (s.bscArriveKept p).sample.inputs = s.sample.inputs := by
  unfold State.bscArriveKept; split <;> simp
@[simp] theorem State.bscArriveKept_sample_inSample (p : Option AbsPos) (s : State) : (s.bscArriveKept p).sample.inSample = s.sample.inSample := by
  unfold State.bscArriveKept; split <;> simp

/-! ### State.stepSpeed -/

@[simp] theorem State.stepSpeed_rsc_enable (d : Dir) (s : State) : (s.stepSpeed d).rsc.enable = s.rsc.enable := by
  unfold State.stepSpeed; split <;> simp
@[simp] theorem State.stepSpeed_rsc_motion (d : Dir) (s : State) : (s.stepSpeed d).rsc.motion = s.rsc.motion := by
  unfold State.stepSpeed; split <;> simp
@[simp] theorem State.stepSpeed_rsc_intervalMs (d : Dir) (s : State) : (s.stepSpeed d).rsc.intervalMs = s.rsc.intervalMs := by
  unfold State.stepSpeed; split <;> simp
@[simp] theorem State.stepSpeed_rsc_timer (d : Dir) (s : State) : (s.stepSpeed d).rsc.timer = s.rsc.timer := by
  unfold State.stepSpeed; split <;> simp
@[simp] theorem State.stepSpeed_rsc_hello (d : Dir) (s : State) : (s.stepSpeed d).rsc.hello = s.rsc.hello := by
  unfold State.stepSpeed; split <;> simp
@[simp] theorem State.stepSpeed_rsc_sync (d : Dir) (s : State) : (s.stepSpeed d).rsc.sync = s.rsc.sync := by
  unfold State.stepSpeed; split <;> simp
@[simp] theorem State.stepSpeed_rsc_fault (d : Dir) (s : State) : (s.stepSpeed d).rsc.fault = s.rsc.fault := by
  unfold State.stepSpeed; split <;> simp
@[simp] theorem State.stepSpeed_rsc_position (d : Dir) (s : State) : (s.stepSpeed d).rsc.position = s.rsc.position := by
  unfold State.stepSpeed; split <;> simp
@[simp] theorem State.stepSpeed_rsc_inFlight (d : Dir) (s : State) : (s.stepSpeed d).rsc.inFlight = s.rsc.inFlight := by
  unfold State.stepSpeed; split <;> simp
@[simp] theorem State.stepSpeed_rsc_waiting (d : Dir) (s : State) : (s.stepSpeed d).rsc.waiting = s.rsc.waiting := by
  unfold State.stepSpeed; split <;> simp
@[simp] theorem State.stepSpeed_rsc_credit (d : Dir) (s : State) : (s.stepSpeed d).rsc.credit = s.rsc.credit := by
  unfold State.stepSpeed; split <;> simp
@[simp] theorem State.stepSpeed_rsc_seq (d : Dir) (s : State) : (s.stepSpeed d).rsc.seq = s.rsc.seq := by
  unfold State.stepSpeed; split <;> simp
@[simp] theorem State.stepSpeed_tsu_timebase (d : Dir) (s : State) : (s.stepSpeed d).tsu.timebase = s.tsu.timebase := by
  unfold State.stepSpeed; split <;> simp
@[simp] theorem State.stepSpeed_tsu_ticking (d : Dir) (s : State) : (s.stepSpeed d).tsu.ticking = s.tsu.ticking := by
  unfold State.stepSpeed; split <;> simp
@[simp] theorem State.stepSpeed_tsu_depth (d : Dir) (s : State) : (s.stepSpeed d).tsu.depth = s.tsu.depth := by
  unfold State.stepSpeed; split <;> simp
@[simp] theorem State.stepSpeed_tsu_stallMs (d : Dir) (s : State) : (s.stepSpeed d).tsu.stallMs = s.tsu.stallMs := by
  unfold State.stepSpeed; split <;> simp
@[simp] theorem State.stepSpeed_tsu_overspeedLimit (d : Dir) (s : State) : (s.stepSpeed d).tsu.overspeedLimit = s.tsu.overspeedLimit := by
  unfold State.stepSpeed; split <;> simp

/-! ### State.applyStep -/

@[simp] theorem State.applyStep_pcu_axis (d : Dir) (s : State) : (s.applyStep d).pcu.axis = s.pcu.axis := by
  unfold State.applyStep; simp
@[simp] theorem State.applyStep_rsc_enable (d : Dir) (s : State) : (s.applyStep d).rsc.enable = s.rsc.enable := by
  unfold State.applyStep; simp
@[simp] theorem State.applyStep_rsc_motion (d : Dir) (s : State) : (s.applyStep d).rsc.motion = s.rsc.motion := by
  unfold State.applyStep; simp
@[simp] theorem State.applyStep_rsc_intervalMs (d : Dir) (s : State) : (s.applyStep d).rsc.intervalMs = s.rsc.intervalMs := by
  unfold State.applyStep; simp
@[simp] theorem State.applyStep_rsc_timer (d : Dir) (s : State) : (s.applyStep d).rsc.timer = s.rsc.timer := by
  unfold State.applyStep; simp
@[simp] theorem State.applyStep_rsc_hello (d : Dir) (s : State) : (s.applyStep d).rsc.hello = s.rsc.hello := by
  unfold State.applyStep; simp
@[simp] theorem State.applyStep_rsc_sync (d : Dir) (s : State) : (s.applyStep d).rsc.sync = s.rsc.sync := by
  unfold State.applyStep; simp
@[simp] theorem State.applyStep_rsc_fault (d : Dir) (s : State) : (s.applyStep d).rsc.fault = s.rsc.fault := by
  unfold State.applyStep; simp
@[simp] theorem State.applyStep_rsc_position (d : Dir) (s : State) : (s.applyStep d).rsc.position = s.rsc.position := by
  unfold State.applyStep; simp
@[simp] theorem State.applyStep_rsc_inFlight (d : Dir) (s : State) : (s.applyStep d).rsc.inFlight = s.rsc.inFlight := by
  unfold State.applyStep; simp
@[simp] theorem State.applyStep_rsc_waiting (d : Dir) (s : State) : (s.applyStep d).rsc.waiting = s.rsc.waiting := by
  unfold State.applyStep; simp
@[simp] theorem State.applyStep_rsc_credit (d : Dir) (s : State) : (s.applyStep d).rsc.credit = s.rsc.credit := by
  unfold State.applyStep; simp
@[simp] theorem State.applyStep_rsc_seq (d : Dir) (s : State) : (s.applyStep d).rsc.seq = s.rsc.seq := by
  unfold State.applyStep; simp
@[simp] theorem State.applyStep_sample_inputs (d : Dir) (s : State) : (s.applyStep d).sample.inputs = s.sample.inputs := by
  unfold State.applyStep; simp
@[simp] theorem State.applyStep_sample_inSample (d : Dir) (s : State) : (s.applyStep d).sample.inSample = s.sample.inSample := by
  unfold State.applyStep; simp
@[simp] theorem State.applyStep_tsu_timebase (d : Dir) (s : State) : (s.applyStep d).tsu.timebase = s.tsu.timebase := by
  unfold State.applyStep; simp
@[simp] theorem State.applyStep_tsu_ticking (d : Dir) (s : State) : (s.applyStep d).tsu.ticking = s.tsu.ticking := by
  unfold State.applyStep; simp
@[simp] theorem State.applyStep_tsu_depth (d : Dir) (s : State) : (s.applyStep d).tsu.depth = s.tsu.depth := by
  unfold State.applyStep; simp
@[simp] theorem State.applyStep_tsu_stallMs (d : Dir) (s : State) : (s.applyStep d).tsu.stallMs = s.tsu.stallMs := by
  unfold State.applyStep; simp
@[simp] theorem State.applyStep_tsu_overspeedLimit (d : Dir) (s : State) : (s.applyStep d).tsu.overspeedLimit = s.tsu.overspeedLimit := by
  unfold State.applyStep; simp

/-! ### State.handStep -/

@[simp] theorem State.handStep_rft_configured (turn : ArrivalTurn) (s : State) : (s.handStep turn).rft.configured = s.rft.configured := by
  unfold State.handStep; dsimp only; (repeat' split) <;> simp
@[simp] theorem State.handStep_rft_inForce (turn : ArrivalTurn) (s : State) : (s.handStep turn).rft.inForce = s.rft.inForce := by
  unfold State.handStep; dsimp only; (repeat' split) <;> simp
@[simp] theorem State.handStep_cts_shadow (turn : ArrivalTurn) (s : State) : (s.handStep turn).cts.shadow = s.cts.shadow := by
  unfold State.handStep; dsimp only; (repeat' split) <;> simp
@[simp] theorem State.handStep_bsc_nextTicket (turn : ArrivalTurn) (s : State) : (s.handStep turn).bsc.nextTicket = s.bsc.nextTicket := by
  unfold State.handStep; dsimp only; (repeat' split) <;> simp
@[simp] theorem State.handStep_tev_enable (turn : ArrivalTurn) (s : State) : (s.handStep turn).tev.enable = s.tev.enable := by
  unfold State.handStep; dsimp only; (repeat' split) <;> simp
@[simp] theorem State.handStep_rsc_enable (turn : ArrivalTurn) (s : State) : (s.handStep turn).rsc.enable = s.rsc.enable := by
  unfold State.handStep; dsimp only; (repeat' split) <;> simp
@[simp] theorem State.handStep_rsc_fault (turn : ArrivalTurn) (s : State) : (s.handStep turn).rsc.fault = s.rsc.fault := by
  unfold State.handStep; dsimp only; (repeat' split) <;> simp
@[simp] theorem State.handStep_rsc_intervalMs (turn : ArrivalTurn) (s : State) : (s.handStep turn).rsc.intervalMs = s.rsc.intervalMs := by
  unfold State.handStep; dsimp only; (repeat' split) <;> simp
@[simp] theorem State.handStep_rsc_timer (turn : ArrivalTurn) (s : State) : (s.handStep turn).rsc.timer = s.rsc.timer := by
  unfold State.handStep; dsimp only; (repeat' split) <;> simp
@[simp] theorem State.handStep_rsc_hello (turn : ArrivalTurn) (s : State) : (s.handStep turn).rsc.hello = s.rsc.hello := by
  unfold State.handStep; dsimp only; (repeat' split) <;> simp
@[simp] theorem State.handStep_rsc_motion (turn : ArrivalTurn) (s : State) : (s.handStep turn).rsc.motion = s.rsc.motion := by
  unfold State.handStep; dsimp only; (repeat' split) <;> simp
@[simp] theorem State.handStep_rsc_position (turn : ArrivalTurn) (s : State) : (s.handStep turn).rsc.position = s.rsc.position := by
  unfold State.handStep; dsimp only; (repeat' split) <;> simp
@[simp] theorem State.handStep_rsc_credit (turn : ArrivalTurn) (s : State) : (s.handStep turn).rsc.credit = s.rsc.credit := by
  unfold State.handStep; dsimp only; (repeat' split) <;> simp
@[simp] theorem State.handStep_rsc_seq (turn : ArrivalTurn) (s : State) : (s.handStep turn).rsc.seq = s.rsc.seq := by
  unfold State.handStep; dsimp only; (repeat' split) <;> simp
@[simp] theorem State.handStep_sample_inputs (turn : ArrivalTurn) (s : State) : (s.handStep turn).sample.inputs = s.sample.inputs := by
  unfold State.handStep; dsimp only; (repeat' split) <;> simp
@[simp] theorem State.handStep_sample_inSample (turn : ArrivalTurn) (s : State) : (s.handStep turn).sample.inSample = s.sample.inSample := by
  unfold State.handStep; dsimp only; (repeat' split) <;> simp

/-! ### State.takeStep -/

@[simp] theorem State.takeStep_pcu_axis (d : Dir) (turn : ArrivalTurn) (s : State) : (s.takeStep d turn).pcu.axis = s.pcu.axis := by
  unfold State.takeStep; simp
@[simp] theorem State.takeStep_rft_configured (d : Dir) (turn : ArrivalTurn) (s : State) : (s.takeStep d turn).rft.configured = s.rft.configured := by
  unfold State.takeStep; simp
@[simp] theorem State.takeStep_rft_inForce (d : Dir) (turn : ArrivalTurn) (s : State) : (s.takeStep d turn).rft.inForce = s.rft.inForce := by
  unfold State.takeStep; simp
@[simp] theorem State.takeStep_tsu_timebase (d : Dir) (turn : ArrivalTurn) (s : State) : (s.takeStep d turn).tsu.timebase = s.tsu.timebase := by
  unfold State.takeStep; simp
@[simp] theorem State.takeStep_tsu_ticking (d : Dir) (turn : ArrivalTurn) (s : State) : (s.takeStep d turn).tsu.ticking = s.tsu.ticking := by
  unfold State.takeStep; simp
@[simp] theorem State.takeStep_tsu_depth (d : Dir) (turn : ArrivalTurn) (s : State) : (s.takeStep d turn).tsu.depth = s.tsu.depth := by
  unfold State.takeStep; simp
@[simp] theorem State.takeStep_tsu_stallMs (d : Dir) (turn : ArrivalTurn) (s : State) : (s.takeStep d turn).tsu.stallMs = s.tsu.stallMs := by
  unfold State.takeStep; simp
@[simp] theorem State.takeStep_tsu_overspeedLimit (d : Dir) (turn : ArrivalTurn) (s : State) : (s.takeStep d turn).tsu.overspeedLimit = s.tsu.overspeedLimit := by
  unfold State.takeStep; simp
@[simp] theorem State.takeStep_cts_shadow (d : Dir) (turn : ArrivalTurn) (s : State) : (s.takeStep d turn).cts.shadow = s.cts.shadow := by
  unfold State.takeStep; simp
@[simp] theorem State.takeStep_bsc_nextTicket (d : Dir) (turn : ArrivalTurn) (s : State) : (s.takeStep d turn).bsc.nextTicket = s.bsc.nextTicket := by
  unfold State.takeStep; simp
@[simp] theorem State.takeStep_tev_enable (d : Dir) (turn : ArrivalTurn) (s : State) : (s.takeStep d turn).tev.enable = s.tev.enable := by
  unfold State.takeStep; simp
@[simp] theorem State.takeStep_rsc_enable (d : Dir) (turn : ArrivalTurn) (s : State) : (s.takeStep d turn).rsc.enable = s.rsc.enable := by
  unfold State.takeStep; simp
@[simp] theorem State.takeStep_rsc_fault (d : Dir) (turn : ArrivalTurn) (s : State) : (s.takeStep d turn).rsc.fault = s.rsc.fault := by
  unfold State.takeStep; simp
@[simp] theorem State.takeStep_rsc_motion (d : Dir) (turn : ArrivalTurn) (s : State) : (s.takeStep d turn).rsc.motion = s.rsc.motion := by
  unfold State.takeStep; simp
@[simp] theorem State.takeStep_rsc_intervalMs (d : Dir) (turn : ArrivalTurn) (s : State) : (s.takeStep d turn).rsc.intervalMs = s.rsc.intervalMs := by
  unfold State.takeStep; simp
@[simp] theorem State.takeStep_rsc_timer (d : Dir) (turn : ArrivalTurn) (s : State) : (s.takeStep d turn).rsc.timer = s.rsc.timer := by
  unfold State.takeStep; simp
@[simp] theorem State.takeStep_rsc_hello (d : Dir) (turn : ArrivalTurn) (s : State) : (s.takeStep d turn).rsc.hello = s.rsc.hello := by
  unfold State.takeStep; simp
@[simp] theorem State.takeStep_rsc_position (d : Dir) (turn : ArrivalTurn) (s : State) : (s.takeStep d turn).rsc.position = s.rsc.position := by
  unfold State.takeStep; simp
@[simp] theorem State.takeStep_rsc_credit (d : Dir) (turn : ArrivalTurn) (s : State) : (s.takeStep d turn).rsc.credit = s.rsc.credit := by
  unfold State.takeStep; simp
@[simp] theorem State.takeStep_rsc_seq (d : Dir) (turn : ArrivalTurn) (s : State) : (s.takeStep d turn).rsc.seq = s.rsc.seq := by
  unfold State.takeStep; simp
@[simp] theorem State.takeStep_sample_inputs (d : Dir) (turn : ArrivalTurn) (s : State) : (s.takeStep d turn).sample.inputs = s.sample.inputs := by
  unfold State.takeStep; simp
@[simp] theorem State.takeStep_sample_inSample (d : Dir) (turn : ArrivalTurn) (s : State) : (s.takeStep d turn).sample.inSample = s.sample.inSample := by
  unfold State.takeStep; simp

/-! ### State.rftQuad -/

@[simp] theorem State.rftQuad_rft_configured (s : State) : (s.rftQuad).rft.configured = s.rft.configured := by
  unfold State.rftQuad; split <;> simp
@[simp] theorem State.rftQuad_rft_inForce (s : State) : (s.rftQuad).rft.inForce = s.rft.inForce := by
  unfold State.rftQuad; split <;> simp
@[simp] theorem State.rftQuad_rsc_enable (s : State) : (s.rftQuad).rsc.enable = s.rsc.enable := by
  unfold State.rftQuad; split <;> simp
@[simp] theorem State.rftQuad_rsc_intervalMs (s : State) : (s.rftQuad).rsc.intervalMs = s.rsc.intervalMs := by
  unfold State.rftQuad; split <;> simp
@[simp] theorem State.rftQuad_rsc_timer (s : State) : (s.rftQuad).rsc.timer = s.rsc.timer := by
  unfold State.rftQuad; split <;> simp
@[simp] theorem State.rftQuad_rsc_hello (s : State) : (s.rftQuad).rsc.hello = s.rsc.hello := by
  unfold State.rftQuad; split <;> simp
@[simp] theorem State.rftQuad_rsc_fault (s : State) : (s.rftQuad).rsc.fault = s.rsc.fault := by
  unfold State.rftQuad; split <;> simp
@[simp] theorem State.rftQuad_rsc_motion (s : State) : (s.rftQuad).rsc.motion = s.rsc.motion := by
  unfold State.rftQuad; split <;> simp
@[simp] theorem State.rftQuad_rsc_position (s : State) : (s.rftQuad).rsc.position = s.rsc.position := by
  unfold State.rftQuad; split <;> simp
@[simp] theorem State.rftQuad_rsc_credit (s : State) : (s.rftQuad).rsc.credit = s.rsc.credit := by
  unfold State.rftQuad; split <;> simp
@[simp] theorem State.rftQuad_rsc_seq (s : State) : (s.rftQuad).rsc.seq = s.rsc.seq := by
  unfold State.rftQuad; split <;> simp
@[simp] theorem State.rftQuad_sample_inputs (s : State) : (s.rftQuad).sample.inputs = s.sample.inputs := by
  unfold State.rftQuad; split <;> simp
@[simp] theorem State.rftQuad_sample_inSample (s : State) : (s.rftQuad).sample.inSample = s.sample.inSample := by
  unfold State.rftQuad; split <;> simp

/-! ### State.countQuad -/

@[simp] theorem State.countQuad_qdu_a (s : State) : s.countQuad.qdu.a = s.qdu.a := by
  unfold State.countQuad; split <;> rfl
@[simp] theorem State.countQuad_qdu_b (s : State) : s.countQuad.qdu.b = s.qdu.b := by
  unfold State.countQuad; split <;> rfl
@[simp] theorem State.countQuad_qdu_z (s : State) : s.countQuad.qdu.z = s.qdu.z := by
  unfold State.countQuad; split <;> rfl
@[simp] theorem State.countQuad_qdu_settling (s : State) : s.countQuad.qdu.settling = s.qdu.settling := by
  unfold State.countQuad; split <;> rfl
@[simp] theorem State.countQuad_qdu_ref (s : State) : s.countQuad.qdu.ref = s.qdu.ref := by
  unfold State.countQuad; split <;> rfl
@[simp] theorem State.countQuad_qdu_zRef (s : State) : s.countQuad.qdu.zRef = s.qdu.zRef := by
  unfold State.countQuad; split <;> rfl
@[simp] theorem State.countQuad_rsc_enable (s : State) : s.countQuad.rsc.enable = s.rsc.enable := by
  unfold State.countQuad; split <;> rfl
@[simp] theorem State.countQuad_rsc_intervalMs (s : State) : s.countQuad.rsc.intervalMs = s.rsc.intervalMs := by
  unfold State.countQuad; split <;> rfl
@[simp] theorem State.countQuad_rsc_timer (s : State) : s.countQuad.rsc.timer = s.rsc.timer := by
  unfold State.countQuad; split <;> rfl
@[simp] theorem State.countQuad_rsc_hello (s : State) : s.countQuad.rsc.hello = s.rsc.hello := by
  unfold State.countQuad; split <;> rfl
@[simp] theorem State.countQuad_rsc_sync (s : State) : s.countQuad.rsc.sync = s.rsc.sync := by
  unfold State.countQuad; split <;> rfl
@[simp] theorem State.countQuad_rsc_fault (s : State) : s.countQuad.rsc.fault = s.rsc.fault := by
  unfold State.countQuad; split <;> rfl
@[simp] theorem State.countQuad_rsc_motion (s : State) : s.countQuad.rsc.motion = s.rsc.motion := by
  unfold State.countQuad; split <;> rfl
@[simp] theorem State.countQuad_rsc_position (s : State) : s.countQuad.rsc.position = s.rsc.position := by
  unfold State.countQuad; split <;> rfl
@[simp] theorem State.countQuad_rsc_inFlight (s : State) : s.countQuad.rsc.inFlight = s.rsc.inFlight := by
  unfold State.countQuad; split <;> rfl
@[simp] theorem State.countQuad_rsc_waiting (s : State) : s.countQuad.rsc.waiting = s.rsc.waiting := by
  unfold State.countQuad; split <;> rfl
@[simp] theorem State.countQuad_rsc_credit (s : State) : s.countQuad.rsc.credit = s.rsc.credit := by
  unfold State.countQuad; split <;> rfl
@[simp] theorem State.countQuad_rsc_seq (s : State) : s.countQuad.rsc.seq = s.rsc.seq := by
  unfold State.countQuad; split <;> rfl
@[simp] theorem State.countQuad_rsc_recent (s : State) : s.countQuad.rsc.recent = s.rsc.recent := by
  unfold State.countQuad; split <;> rfl

/-! ### State.takeQuadError -/

@[simp] theorem State.takeQuadError_qdu_a (turn : LossTurn) (s : State) : (s.takeQuadError turn).qdu.a = s.qdu.a := by
  unfold State.takeQuadError State.quadWithIndex; dsimp only; (repeat' split) <;> simp
@[simp] theorem State.takeQuadError_qdu_b (turn : LossTurn) (s : State) : (s.takeQuadError turn).qdu.b = s.qdu.b := by
  unfold State.takeQuadError State.quadWithIndex; dsimp only; (repeat' split) <;> simp
@[simp] theorem State.takeQuadError_qdu_z (turn : LossTurn) (s : State) : (s.takeQuadError turn).qdu.z = s.qdu.z := by
  unfold State.takeQuadError State.quadWithIndex; dsimp only; (repeat' split) <;> simp
@[simp] theorem State.takeQuadError_qdu_settling (turn : LossTurn) (s : State) : (s.takeQuadError turn).qdu.settling = s.qdu.settling := by
  unfold State.takeQuadError State.quadWithIndex; dsimp only; (repeat' split) <;> simp
@[simp] theorem State.takeQuadError_qdu_ref (turn : LossTurn) (s : State) : (s.takeQuadError turn).qdu.ref = s.qdu.ref := by
  unfold State.takeQuadError State.quadWithIndex; dsimp only; (repeat' split) <;> simp
@[simp] theorem State.takeQuadError_qdu_zRef (turn : LossTurn) (s : State) : (s.takeQuadError turn).qdu.zRef = s.qdu.zRef := by
  unfold State.takeQuadError State.quadWithIndex; dsimp only; (repeat' split) <;> simp
@[simp] theorem State.takeQuadError_rft_configured (turn : LossTurn) (s : State) : (s.takeQuadError turn).rft.configured = s.rft.configured := by
  unfold State.takeQuadError State.quadWithIndex; dsimp only; (repeat' split) <;> simp
@[simp] theorem State.takeQuadError_rft_inForce (turn : LossTurn) (s : State) : (s.takeQuadError turn).rft.inForce = s.rft.inForce := by
  unfold State.takeQuadError State.quadWithIndex; dsimp only; (repeat' split) <;> simp
@[simp] theorem State.takeQuadError_cts_shadow (turn : LossTurn) (s : State) : (s.takeQuadError turn).cts.shadow = s.cts.shadow := by
  unfold State.takeQuadError State.quadWithIndex; dsimp only; (repeat' split) <;> simp
@[simp] theorem State.takeQuadError_bsc_nextTicket (turn : LossTurn) (s : State) : (s.takeQuadError turn).bsc.nextTicket = s.bsc.nextTicket := by
  unfold State.takeQuadError State.quadWithIndex; dsimp only; (repeat' split) <;> simp
@[simp] theorem State.takeQuadError_tev_enable (turn : LossTurn) (s : State) : (s.takeQuadError turn).tev.enable = s.tev.enable := by
  unfold State.takeQuadError State.quadWithIndex; dsimp only; (repeat' split) <;> simp
@[simp] theorem State.takeQuadError_rsc_enable (turn : LossTurn) (s : State) : (s.takeQuadError turn).rsc.enable = s.rsc.enable := by
  unfold State.takeQuadError State.quadWithIndex; dsimp only; (repeat' split) <;> simp
@[simp] theorem State.takeQuadError_rsc_fault (turn : LossTurn) (s : State) : (s.takeQuadError turn).rsc.fault = s.rsc.fault := by
  unfold State.takeQuadError State.quadWithIndex; dsimp only; (repeat' split) <;> simp
@[simp] theorem State.takeQuadError_rsc_intervalMs (turn : LossTurn) (s : State) : (s.takeQuadError turn).rsc.intervalMs = s.rsc.intervalMs := by
  unfold State.takeQuadError State.quadWithIndex; dsimp only; (repeat' split) <;> simp
@[simp] theorem State.takeQuadError_rsc_timer (turn : LossTurn) (s : State) : (s.takeQuadError turn).rsc.timer = s.rsc.timer := by
  unfold State.takeQuadError State.quadWithIndex; dsimp only; (repeat' split) <;> simp
@[simp] theorem State.takeQuadError_rsc_hello (turn : LossTurn) (s : State) : (s.takeQuadError turn).rsc.hello = s.rsc.hello := by
  unfold State.takeQuadError State.quadWithIndex; dsimp only; (repeat' split) <;> simp
@[simp] theorem State.takeQuadError_rsc_motion (turn : LossTurn) (s : State) : (s.takeQuadError turn).rsc.motion = s.rsc.motion := by
  unfold State.takeQuadError State.quadWithIndex; dsimp only; (repeat' split) <;> simp
@[simp] theorem State.takeQuadError_rsc_position (turn : LossTurn) (s : State) : (s.takeQuadError turn).rsc.position = s.rsc.position := by
  unfold State.takeQuadError State.quadWithIndex; dsimp only; (repeat' split) <;> simp
@[simp] theorem State.takeQuadError_rsc_credit (turn : LossTurn) (s : State) : (s.takeQuadError turn).rsc.credit = s.rsc.credit := by
  unfold State.takeQuadError State.quadWithIndex; dsimp only; (repeat' split) <;> simp
@[simp] theorem State.takeQuadError_rsc_seq (turn : LossTurn) (s : State) : (s.takeQuadError turn).rsc.seq = s.rsc.seq := by
  unfold State.takeQuadError State.quadWithIndex; dsimp only; (repeat' split) <;> simp
@[simp] theorem State.takeQuadError_sample_inputs (turn : LossTurn) (s : State) : (s.takeQuadError turn).sample.inputs = s.sample.inputs := by
  unfold State.takeQuadError State.quadWithIndex; dsimp only; (repeat' split) <;> simp
@[simp] theorem State.takeQuadError_sample_inSample (turn : LossTurn) (s : State) : (s.takeQuadError turn).sample.inSample = s.sample.inSample := by
  unfold State.takeQuadError State.quadWithIndex; dsimp only; (repeat' split) <;> simp

/-! ### State.indexLocked -/

@[simp] theorem State.indexLocked_pcu_axis (r : RefRecord) (s : State) : (s.indexLocked r).pcu.axis = s.pcu.axis := by
  unfold State.indexLocked; dsimp only; (repeat' split) <;> simp
@[simp] theorem State.indexLocked_pcu_dir (r : RefRecord) (s : State) : (s.indexLocked r).pcu.dir = s.pcu.dir := by
  unfold State.indexLocked; dsimp only; (repeat' split) <;> simp
@[simp] theorem State.indexLocked_rft_configured (r : RefRecord) (s : State) : (s.indexLocked r).rft.configured = s.rft.configured := by
  unfold State.indexLocked; dsimp only; (repeat' split) <;> simp
@[simp] theorem State.indexLocked_rft_inForce (r : RefRecord) (s : State) : (s.indexLocked r).rft.inForce = s.rft.inForce := by
  unfold State.indexLocked; dsimp only; (repeat' split) <;> simp
@[simp] theorem State.indexLocked_tev_enable (r : RefRecord) (s : State) : (s.indexLocked r).tev.enable = s.tev.enable := by
  unfold State.indexLocked; dsimp only; (repeat' split) <;> simp
@[simp] theorem State.indexLocked_rsc_enable (r : RefRecord) (s : State) : (s.indexLocked r).rsc.enable = s.rsc.enable := by
  unfold State.indexLocked; dsimp only; (repeat' split) <;> simp
@[simp] theorem State.indexLocked_rsc_fault (r : RefRecord) (s : State) : (s.indexLocked r).rsc.fault = s.rsc.fault := by
  unfold State.indexLocked; dsimp only; (repeat' split) <;> simp
@[simp] theorem State.indexLocked_rsc_intervalMs (r : RefRecord) (s : State) : (s.indexLocked r).rsc.intervalMs = s.rsc.intervalMs := by
  unfold State.indexLocked; dsimp only; (repeat' split) <;> simp
@[simp] theorem State.indexLocked_rsc_timer (r : RefRecord) (s : State) : (s.indexLocked r).rsc.timer = s.rsc.timer := by
  unfold State.indexLocked; dsimp only; (repeat' split) <;> simp
@[simp] theorem State.indexLocked_rsc_hello (r : RefRecord) (s : State) : (s.indexLocked r).rsc.hello = s.rsc.hello := by
  unfold State.indexLocked; dsimp only; (repeat' split) <;> simp
@[simp] theorem State.indexLocked_rsc_motion (r : RefRecord) (s : State) : (s.indexLocked r).rsc.motion = s.rsc.motion := by
  unfold State.indexLocked; dsimp only; (repeat' split) <;> simp
@[simp] theorem State.indexLocked_rsc_position (r : RefRecord) (s : State) : (s.indexLocked r).rsc.position = s.rsc.position := by
  unfold State.indexLocked; dsimp only; (repeat' split) <;> simp
@[simp] theorem State.indexLocked_rsc_inFlight (r : RefRecord) (s : State) : (s.indexLocked r).rsc.inFlight = s.rsc.inFlight := by
  unfold State.indexLocked; dsimp only; (repeat' split) <;> simp
@[simp] theorem State.indexLocked_rsc_waiting (r : RefRecord) (s : State) : (s.indexLocked r).rsc.waiting = s.rsc.waiting := by
  unfold State.indexLocked; dsimp only; (repeat' split) <;> simp
@[simp] theorem State.indexLocked_rsc_credit (r : RefRecord) (s : State) : (s.indexLocked r).rsc.credit = s.rsc.credit := by
  unfold State.indexLocked; dsimp only; (repeat' split) <;> simp
@[simp] theorem State.indexLocked_rsc_seq (r : RefRecord) (s : State) : (s.indexLocked r).rsc.seq = s.rsc.seq := by
  unfold State.indexLocked; dsimp only; (repeat' split) <;> simp
@[simp] theorem State.indexLocked_sample_inputs (r : RefRecord) (s : State) : (s.indexLocked r).sample.inputs = s.sample.inputs := by
  unfold State.indexLocked; dsimp only; (repeat' split) <;> simp
@[simp] theorem State.indexLocked_sample_inSample (r : RefRecord) (s : State) : (s.indexLocked r).sample.inSample = s.sample.inSample := by
  unfold State.indexLocked; dsimp only; (repeat' split) <;> simp

/-! ### State.rftIndex -/

@[simp] theorem State.rftIndex_pcu_axis (s : State) : (s.rftIndex).pcu.axis = s.pcu.axis := by
  unfold State.rftIndex; (repeat' split) <;> first | rfl | simp
@[simp] theorem State.rftIndex_pcu_dir (s : State) : (s.rftIndex).pcu.dir = s.pcu.dir := by
  unfold State.rftIndex; (repeat' split) <;> first | rfl | simp
@[simp] theorem State.rftIndex_rft_configured (s : State) : (s.rftIndex).rft.configured = s.rft.configured := by
  unfold State.rftIndex; (repeat' split) <;> first | rfl | simp
@[simp] theorem State.rftIndex_tev_enable (s : State) : (s.rftIndex).tev.enable = s.tev.enable := by
  unfold State.rftIndex; (repeat' split) <;> first | rfl | simp
@[simp] theorem State.rftIndex_rsc_enable (s : State) : (s.rftIndex).rsc.enable = s.rsc.enable := by
  unfold State.rftIndex; (repeat' split) <;> first | rfl | simp
@[simp] theorem State.rftIndex_rsc_fault (s : State) : (s.rftIndex).rsc.fault = s.rsc.fault := by
  unfold State.rftIndex; (repeat' split) <;> first | rfl | simp
@[simp] theorem State.rftIndex_rsc_intervalMs (s : State) : (s.rftIndex).rsc.intervalMs = s.rsc.intervalMs := by
  unfold State.rftIndex; (repeat' split) <;> first | rfl | simp
@[simp] theorem State.rftIndex_rsc_timer (s : State) : (s.rftIndex).rsc.timer = s.rsc.timer := by
  unfold State.rftIndex; (repeat' split) <;> first | rfl | simp
@[simp] theorem State.rftIndex_rsc_hello (s : State) : (s.rftIndex).rsc.hello = s.rsc.hello := by
  unfold State.rftIndex; (repeat' split) <;> first | rfl | simp
@[simp] theorem State.rftIndex_rsc_motion (s : State) : (s.rftIndex).rsc.motion = s.rsc.motion := by
  unfold State.rftIndex; (repeat' split) <;> first | rfl | simp
@[simp] theorem State.rftIndex_rsc_position (s : State) : (s.rftIndex).rsc.position = s.rsc.position := by
  unfold State.rftIndex; (repeat' split) <;> first | rfl | simp
@[simp] theorem State.rftIndex_rsc_credit (s : State) : (s.rftIndex).rsc.credit = s.rsc.credit := by
  unfold State.rftIndex; (repeat' split) <;> first | rfl | simp
@[simp] theorem State.rftIndex_rsc_seq (s : State) : (s.rftIndex).rsc.seq = s.rsc.seq := by
  unfold State.rftIndex; (repeat' split) <;> first | rfl | simp
@[simp] theorem State.rftIndex_sample_inputs (s : State) : (s.rftIndex).sample.inputs = s.sample.inputs := by
  unfold State.rftIndex; (repeat' split) <;> first | rfl | simp
@[simp] theorem State.rftIndex_sample_inSample (s : State) : (s.rftIndex).sample.inSample = s.sample.inSample := by
  unfold State.rftIndex; (repeat' split) <;> first | rfl | simp

/-! ### State.takeIndexEvent -/

@[simp] theorem State.takeIndexEvent_pcu_axis (turn : LossTurn) (s : State) : (s.takeIndexEvent turn).pcu.axis = s.pcu.axis := by
  unfold State.takeIndexEvent; split <;> simp
@[simp] theorem State.takeIndexEvent_pcu_dir (turn : LossTurn) (s : State) : (s.takeIndexEvent turn).pcu.dir = s.pcu.dir := by
  unfold State.takeIndexEvent; split <;> simp
@[simp] theorem State.takeIndexEvent_rft_configured (turn : LossTurn) (s : State) : (s.takeIndexEvent turn).rft.configured = s.rft.configured := by
  unfold State.takeIndexEvent; split <;> simp
@[simp] theorem State.takeIndexEvent_cts_shadow (turn : LossTurn) (s : State) : (s.takeIndexEvent turn).cts.shadow = s.cts.shadow := by
  unfold State.takeIndexEvent; split <;> simp
@[simp] theorem State.takeIndexEvent_bsc_nextTicket (turn : LossTurn) (s : State) : (s.takeIndexEvent turn).bsc.nextTicket = s.bsc.nextTicket := by
  unfold State.takeIndexEvent; split <;> simp
@[simp] theorem State.takeIndexEvent_tev_enable (turn : LossTurn) (s : State) : (s.takeIndexEvent turn).tev.enable = s.tev.enable := by
  unfold State.takeIndexEvent; split <;> simp
@[simp] theorem State.takeIndexEvent_rsc_enable (turn : LossTurn) (s : State) : (s.takeIndexEvent turn).rsc.enable = s.rsc.enable := by
  unfold State.takeIndexEvent; split <;> simp
@[simp] theorem State.takeIndexEvent_rsc_fault (turn : LossTurn) (s : State) : (s.takeIndexEvent turn).rsc.fault = s.rsc.fault := by
  unfold State.takeIndexEvent; split <;> simp
@[simp] theorem State.takeIndexEvent_rsc_intervalMs (turn : LossTurn) (s : State) : (s.takeIndexEvent turn).rsc.intervalMs = s.rsc.intervalMs := by
  unfold State.takeIndexEvent; split <;> simp
@[simp] theorem State.takeIndexEvent_rsc_timer (turn : LossTurn) (s : State) : (s.takeIndexEvent turn).rsc.timer = s.rsc.timer := by
  unfold State.takeIndexEvent; split <;> simp
@[simp] theorem State.takeIndexEvent_rsc_hello (turn : LossTurn) (s : State) : (s.takeIndexEvent turn).rsc.hello = s.rsc.hello := by
  unfold State.takeIndexEvent; split <;> simp
@[simp] theorem State.takeIndexEvent_rsc_motion (turn : LossTurn) (s : State) : (s.takeIndexEvent turn).rsc.motion = s.rsc.motion := by
  unfold State.takeIndexEvent; split <;> simp
@[simp] theorem State.takeIndexEvent_rsc_position (turn : LossTurn) (s : State) : (s.takeIndexEvent turn).rsc.position = s.rsc.position := by
  unfold State.takeIndexEvent; split <;> simp
@[simp] theorem State.takeIndexEvent_rsc_credit (turn : LossTurn) (s : State) : (s.takeIndexEvent turn).rsc.credit = s.rsc.credit := by
  unfold State.takeIndexEvent; split <;> simp
@[simp] theorem State.takeIndexEvent_rsc_seq (turn : LossTurn) (s : State) : (s.takeIndexEvent turn).rsc.seq = s.rsc.seq := by
  unfold State.takeIndexEvent; split <;> simp
@[simp] theorem State.takeIndexEvent_sample_inputs (turn : LossTurn) (s : State) : (s.takeIndexEvent turn).sample.inputs = s.sample.inputs := by
  unfold State.takeIndexEvent; split <;> simp
@[simp] theorem State.takeIndexEvent_sample_inSample (turn : LossTurn) (s : State) : (s.takeIndexEvent turn).sample.inSample = s.sample.inSample := by
  unfold State.takeIndexEvent; split <;> simp

/-! ### State.takeRefEdge -/

@[simp] theorem State.takeRefEdge_pcu_axis (n : Fin 4) (s : State) : (s.takeRefEdge n).pcu.axis = s.pcu.axis := by
  unfold State.takeRefEdge; dsimp only; (repeat' split) <;> rfl
@[simp] theorem State.takeRefEdge_pcu_dir (n : Fin 4) (s : State) : (s.takeRefEdge n).pcu.dir = s.pcu.dir := by
  unfold State.takeRefEdge; dsimp only; (repeat' split) <;> rfl
@[simp] theorem State.takeRefEdge_rft_configured (n : Fin 4) (s : State) : (s.takeRefEdge n).rft.configured = s.rft.configured := by
  unfold State.takeRefEdge; dsimp only; (repeat' split) <;> rfl
@[simp] theorem State.takeRefEdge_tev_enable (n : Fin 4) (s : State) : (s.takeRefEdge n).tev.enable = s.tev.enable := by
  unfold State.takeRefEdge; dsimp only; (repeat' split) <;> rfl
@[simp] theorem State.takeRefEdge_rsc_enable (n : Fin 4) (s : State) : (s.takeRefEdge n).rsc.enable = s.rsc.enable := by
  unfold State.takeRefEdge; dsimp only; (repeat' split) <;> rfl
@[simp] theorem State.takeRefEdge_rsc_intervalMs (n : Fin 4) (s : State) : (s.takeRefEdge n).rsc.intervalMs = s.rsc.intervalMs := by
  unfold State.takeRefEdge; dsimp only; (repeat' split) <;> rfl
@[simp] theorem State.takeRefEdge_rsc_timer (n : Fin 4) (s : State) : (s.takeRefEdge n).rsc.timer = s.rsc.timer := by
  unfold State.takeRefEdge; dsimp only; (repeat' split) <;> rfl
@[simp] theorem State.takeRefEdge_rsc_hello (n : Fin 4) (s : State) : (s.takeRefEdge n).rsc.hello = s.rsc.hello := by
  unfold State.takeRefEdge; dsimp only; (repeat' split) <;> rfl
@[simp] theorem State.takeRefEdge_rsc_fault (n : Fin 4) (s : State) : (s.takeRefEdge n).rsc.fault = s.rsc.fault := by
  unfold State.takeRefEdge; dsimp only; (repeat' split) <;> rfl
@[simp] theorem State.takeRefEdge_rsc_motion (n : Fin 4) (s : State) : (s.takeRefEdge n).rsc.motion = s.rsc.motion := by
  unfold State.takeRefEdge; dsimp only; (repeat' split) <;> rfl
@[simp] theorem State.takeRefEdge_rsc_position (n : Fin 4) (s : State) : (s.takeRefEdge n).rsc.position = s.rsc.position := by
  unfold State.takeRefEdge; dsimp only; (repeat' split) <;> rfl
@[simp] theorem State.takeRefEdge_rsc_credit (n : Fin 4) (s : State) : (s.takeRefEdge n).rsc.credit = s.rsc.credit := by
  unfold State.takeRefEdge; dsimp only; (repeat' split) <;> rfl
@[simp] theorem State.takeRefEdge_rsc_seq (n : Fin 4) (s : State) : (s.takeRefEdge n).rsc.seq = s.rsc.seq := by
  unfold State.takeRefEdge; dsimp only; (repeat' split) <;> rfl
@[simp] theorem State.takeRefEdge_sample_inputs (n : Fin 4) (s : State) : (s.takeRefEdge n).sample.inputs = s.sample.inputs := by
  unfold State.takeRefEdge; dsimp only; (repeat' split) <;> rfl
@[simp] theorem State.takeRefEdge_sample_inSample (n : Fin 4) (s : State) : (s.takeRefEdge n).sample.inSample = s.sample.inSample := by
  unfold State.takeRefEdge; dsimp only; (repeat' split) <;> rfl

/-! ### State.takeLcuEdge -/

@[simp] theorem State.takeLcuEdge_pcu_axis (n : Fin 4) (back : Nat) (s : State) : (s.takeLcuEdge n back).pcu.axis = s.pcu.axis := by
  unfold State.takeLcuEdge; split <;> simp
@[simp] theorem State.takeLcuEdge_pcu_dir (n : Fin 4) (back : Nat) (s : State) : (s.takeLcuEdge n back).pcu.dir = s.pcu.dir := by
  unfold State.takeLcuEdge; split <;> simp
@[simp] theorem State.takeLcuEdge_rft_configured (n : Fin 4) (back : Nat) (s : State) : (s.takeLcuEdge n back).rft.configured = s.rft.configured := by
  unfold State.takeLcuEdge; split <;> simp
@[simp] theorem State.takeLcuEdge_tev_enable (n : Fin 4) (back : Nat) (s : State) : (s.takeLcuEdge n back).tev.enable = s.tev.enable := by
  unfold State.takeLcuEdge; split <;> simp
@[simp] theorem State.takeLcuEdge_rsc_enable (n : Fin 4) (back : Nat) (s : State) : (s.takeLcuEdge n back).rsc.enable = s.rsc.enable := by
  unfold State.takeLcuEdge; split <;> simp
@[simp] theorem State.takeLcuEdge_rsc_sync (n : Fin 4) (back : Nat) (s : State) : (s.takeLcuEdge n back).rsc.sync = s.rsc.sync := by
  unfold State.takeLcuEdge; split <;> simp
@[simp] theorem State.takeLcuEdge_rsc_fault (n : Fin 4) (back : Nat) (s : State) : (s.takeLcuEdge n back).rsc.fault = s.rsc.fault := by
  unfold State.takeLcuEdge; split <;> simp
@[simp] theorem State.takeLcuEdge_rsc_intervalMs (n : Fin 4) (back : Nat) (s : State) : (s.takeLcuEdge n back).rsc.intervalMs = s.rsc.intervalMs := by
  unfold State.takeLcuEdge; split <;> simp
@[simp] theorem State.takeLcuEdge_rsc_timer (n : Fin 4) (back : Nat) (s : State) : (s.takeLcuEdge n back).rsc.timer = s.rsc.timer := by
  unfold State.takeLcuEdge; split <;> simp
@[simp] theorem State.takeLcuEdge_rsc_hello (n : Fin 4) (back : Nat) (s : State) : (s.takeLcuEdge n back).rsc.hello = s.rsc.hello := by
  unfold State.takeLcuEdge; split <;> simp
@[simp] theorem State.takeLcuEdge_rsc_motion (n : Fin 4) (back : Nat) (s : State) : (s.takeLcuEdge n back).rsc.motion = s.rsc.motion := by
  unfold State.takeLcuEdge; split <;> simp
@[simp] theorem State.takeLcuEdge_rsc_position (n : Fin 4) (back : Nat) (s : State) : (s.takeLcuEdge n back).rsc.position = s.rsc.position := by
  unfold State.takeLcuEdge; split <;> simp
@[simp] theorem State.takeLcuEdge_rsc_credit (n : Fin 4) (back : Nat) (s : State) : (s.takeLcuEdge n back).rsc.credit = s.rsc.credit := by
  unfold State.takeLcuEdge; split <;> simp
@[simp] theorem State.takeLcuEdge_rsc_seq (n : Fin 4) (back : Nat) (s : State) : (s.takeLcuEdge n back).rsc.seq = s.rsc.seq := by
  unfold State.takeLcuEdge; split <;> simp
@[simp] theorem State.takeLcuEdge_sample_inputs (n : Fin 4) (back : Nat) (s : State) : (s.takeLcuEdge n back).sample.inputs = s.sample.inputs := by
  unfold State.takeLcuEdge; split <;> simp
@[simp] theorem State.takeLcuEdge_sample_inSample (n : Fin 4) (back : Nat) (s : State) : (s.takeLcuEdge n back).sample.inSample = s.sample.inSample := by
  unfold State.takeLcuEdge; split <;> simp

/-! ### State.takeLatchEdge -/

@[simp] theorem State.takeLatchEdge_pcu_axis (n : Fin 4) (turn : EdgeTurn) (s : State) : (s.takeLatchEdge n turn).pcu.axis = s.pcu.axis := by
  unfold State.takeLatchEdge; cases turn <;> simp
@[simp] theorem State.takeLatchEdge_pcu_dir (n : Fin 4) (turn : EdgeTurn) (s : State) : (s.takeLatchEdge n turn).pcu.dir = s.pcu.dir := by
  unfold State.takeLatchEdge; cases turn <;> simp
@[simp] theorem State.takeLatchEdge_rft_configured (n : Fin 4) (turn : EdgeTurn) (s : State) : (s.takeLatchEdge n turn).rft.configured = s.rft.configured := by
  unfold State.takeLatchEdge; cases turn <;> simp
@[simp] theorem State.takeLatchEdge_tev_enable (n : Fin 4) (turn : EdgeTurn) (s : State) : (s.takeLatchEdge n turn).tev.enable = s.tev.enable := by
  unfold State.takeLatchEdge; cases turn <;> simp
@[simp] theorem State.takeLatchEdge_rsc_enable (n : Fin 4) (turn : EdgeTurn) (s : State) : (s.takeLatchEdge n turn).rsc.enable = s.rsc.enable := by
  unfold State.takeLatchEdge; cases turn <;> simp
@[simp] theorem State.takeLatchEdge_rsc_fault (n : Fin 4) (turn : EdgeTurn) (s : State) : (s.takeLatchEdge n turn).rsc.fault = s.rsc.fault := by
  unfold State.takeLatchEdge; cases turn <;> simp
@[simp] theorem State.takeLatchEdge_rsc_intervalMs (n : Fin 4) (turn : EdgeTurn) (s : State) : (s.takeLatchEdge n turn).rsc.intervalMs = s.rsc.intervalMs := by
  unfold State.takeLatchEdge; cases turn <;> simp
@[simp] theorem State.takeLatchEdge_rsc_timer (n : Fin 4) (turn : EdgeTurn) (s : State) : (s.takeLatchEdge n turn).rsc.timer = s.rsc.timer := by
  unfold State.takeLatchEdge; cases turn <;> simp
@[simp] theorem State.takeLatchEdge_rsc_hello (n : Fin 4) (turn : EdgeTurn) (s : State) : (s.takeLatchEdge n turn).rsc.hello = s.rsc.hello := by
  unfold State.takeLatchEdge; cases turn <;> simp
@[simp] theorem State.takeLatchEdge_rsc_motion (n : Fin 4) (turn : EdgeTurn) (s : State) : (s.takeLatchEdge n turn).rsc.motion = s.rsc.motion := by
  unfold State.takeLatchEdge; cases turn <;> simp
@[simp] theorem State.takeLatchEdge_rsc_position (n : Fin 4) (turn : EdgeTurn) (s : State) : (s.takeLatchEdge n turn).rsc.position = s.rsc.position := by
  unfold State.takeLatchEdge; cases turn <;> simp
@[simp] theorem State.takeLatchEdge_rsc_credit (n : Fin 4) (turn : EdgeTurn) (s : State) : (s.takeLatchEdge n turn).rsc.credit = s.rsc.credit := by
  unfold State.takeLatchEdge; cases turn <;> simp
@[simp] theorem State.takeLatchEdge_rsc_seq (n : Fin 4) (turn : EdgeTurn) (s : State) : (s.takeLatchEdge n turn).rsc.seq = s.rsc.seq := by
  unfold State.takeLatchEdge; cases turn <;> simp
@[simp] theorem State.takeLatchEdge_sample_inputs (n : Fin 4) (turn : EdgeTurn) (s : State) : (s.takeLatchEdge n turn).sample.inputs = s.sample.inputs := by
  unfold State.takeLatchEdge; cases turn <;> simp
@[simp] theorem State.takeLatchEdge_sample_inSample (n : Fin 4) (turn : EdgeTurn) (s : State) : (s.takeLatchEdge n turn).sample.inSample = s.sample.inSample := by
  unfold State.takeLatchEdge; cases turn <;> simp

/-! ### State.takeTimer -/

@[simp] theorem State.takeTimer_rsc_enable (back : Nat) (s : State) : (s.takeTimer back).rsc.enable = s.rsc.enable :=
  rfl
@[simp] theorem State.takeTimer_rsc_fresh (back : Nat) (s : State) : (s.takeTimer back).rsc.fresh = s.rsc.fresh :=
  rfl
@[simp] theorem State.takeTimer_rsc_intervalMs (back : Nat) (s : State) : (s.takeTimer back).rsc.intervalMs = s.rsc.intervalMs :=
  rfl
@[simp] theorem State.takeTimer_rsc_hello (back : Nat) (s : State) : (s.takeTimer back).rsc.hello = s.rsc.hello := rfl
@[simp] theorem State.takeTimer_rsc_sync (back : Nat) (s : State) : (s.takeTimer back).rsc.sync = s.rsc.sync := rfl
@[simp] theorem State.takeTimer_rsc_fault (back : Nat) (s : State) : (s.takeTimer back).rsc.fault = s.rsc.fault := rfl
@[simp] theorem State.takeTimer_rsc_motion (back : Nat) (s : State) : (s.takeTimer back).rsc.motion = s.rsc.motion :=
  rfl
@[simp] theorem State.takeTimer_rsc_inFlight (back : Nat) (s : State) : (s.takeTimer back).rsc.inFlight = s.rsc.inFlight :=
  rfl
@[simp] theorem State.takeTimer_rsc_waiting (back : Nat) (s : State) : (s.takeTimer back).rsc.waiting = s.rsc.waiting :=
  rfl
@[simp] theorem State.takeTimer_rsc_credit (back : Nat) (s : State) : (s.takeTimer back).rsc.credit = s.rsc.credit :=
  rfl
@[simp] theorem State.takeTimer_rsc_seq (back : Nat) (s : State) : (s.takeTimer back).rsc.seq = s.rsc.seq := rfl

/-! ### State.endSample -/

@[simp] theorem State.endSample_tev_enable (s : State) : (s.endSample).tev.enable = s.tev.enable := rfl
@[simp] theorem State.endSample_sample_inputs (s : State) : (s.endSample).sample.inputs = s.sample.inputs := rfl

/-! ### State.settle -/

@[simp] theorem State.settle_tev_enable (s : State) : (s.settle).tev.enable = s.tev.enable := by
  unfold State.settle; split <;> simp
@[simp] theorem State.settle_sample_inputs (s : State) : (s.settle).sample.inputs = s.sample.inputs := by
  unfold State.settle; split <;> simp

/-! ### State.takeEvent -/

@[simp] theorem State.takeEvent_qdu_a (e : FieldEvent) (s : State) : (s.takeEvent e).qdu.a = s.qdu.a := by
  unfold State.takeEvent; (repeat' split) <;> first | rfl | simp
@[simp] theorem State.takeEvent_qdu_b (e : FieldEvent) (s : State) : (s.takeEvent e).qdu.b = s.qdu.b := by
  unfold State.takeEvent; (repeat' split) <;> first | rfl | simp
@[simp] theorem State.takeEvent_qdu_z (e : FieldEvent) (s : State) : (s.takeEvent e).qdu.z = s.qdu.z := by
  unfold State.takeEvent; (repeat' split) <;> first | rfl | simp
@[simp] theorem State.takeEvent_pcu_axis (e : FieldEvent) (s : State) : (s.takeEvent e).pcu.axis = s.pcu.axis := by
  unfold State.takeEvent; (repeat' split) <;> first | rfl | simp
@[simp] theorem State.takeEvent_rft_configured (e : FieldEvent) (s : State) : (s.takeEvent e).rft.configured = s.rft.configured := by
  unfold State.takeEvent; (repeat' split) <;> first | rfl | simp
@[simp] theorem State.takeEvent_tsu_timebase (e : FieldEvent) (s : State) : (s.takeEvent e).tsu.timebase = s.tsu.timebase := by
  unfold State.takeEvent; (repeat' split) <;> first | rfl | simp
@[simp] theorem State.takeEvent_tsu_ticking (e : FieldEvent) (s : State) : (s.takeEvent e).tsu.ticking = s.tsu.ticking := by
  unfold State.takeEvent; (repeat' split) <;> first | rfl | simp
@[simp] theorem State.takeEvent_tsu_depth (e : FieldEvent) (s : State) : (s.takeEvent e).tsu.depth = s.tsu.depth := by
  unfold State.takeEvent; (repeat' split) <;> first | rfl | simp
@[simp] theorem State.takeEvent_tsu_stallMs (e : FieldEvent) (s : State) : (s.takeEvent e).tsu.stallMs = s.tsu.stallMs := by
  unfold State.takeEvent; (repeat' split) <;> first | rfl | simp
@[simp] theorem State.takeEvent_tsu_overspeedLimit (e : FieldEvent) (s : State) : (s.takeEvent e).tsu.overspeedLimit = s.tsu.overspeedLimit := by
  unfold State.takeEvent; (repeat' split) <;> first | rfl | simp
@[simp] theorem State.takeEvent_cts_shadow (e : FieldEvent) (s : State) : (s.takeEvent e).cts.shadow = s.cts.shadow := by
  unfold State.takeEvent; (repeat' split) <;> first | rfl | simp
@[simp] theorem State.takeEvent_bsc_nextTicket (e : FieldEvent) (s : State) : (s.takeEvent e).bsc.nextTicket = s.bsc.nextTicket := by
  unfold State.takeEvent; (repeat' split) <;> first | rfl | simp
@[simp] theorem State.takeEvent_tev_enable (e : FieldEvent) (s : State) : (s.takeEvent e).tev.enable = s.tev.enable := by
  unfold State.takeEvent; (repeat' split) <;> first | rfl | simp
@[simp] theorem State.takeEvent_rsc_enable (e : FieldEvent) (s : State) : (s.takeEvent e).rsc.enable = s.rsc.enable := by
  unfold State.takeEvent; (repeat' split) <;> first | rfl | simp
@[simp] theorem State.takeEvent_rsc_fault (e : FieldEvent) (s : State) : (s.takeEvent e).rsc.fault = s.rsc.fault := by
  unfold State.takeEvent; (repeat' split) <;> first | rfl | simp
@[simp] theorem State.takeEvent_rsc_motion (e : FieldEvent) (s : State) : (s.takeEvent e).rsc.motion = s.rsc.motion := by
  unfold State.takeEvent; (repeat' split) <;> first | rfl | simp
@[simp] theorem State.takeEvent_rsc_intervalMs (e : FieldEvent) (s : State) : (s.takeEvent e).rsc.intervalMs = s.rsc.intervalMs := by
  unfold State.takeEvent; (repeat' split) <;> first | rfl | simp
@[simp] theorem State.takeEvent_rsc_hello (e : FieldEvent) (s : State) : (s.takeEvent e).rsc.hello = s.rsc.hello := by
  unfold State.takeEvent; (repeat' split) <;> first | rfl | simp
@[simp] theorem State.takeEvent_rsc_credit (e : FieldEvent) (s : State) : (s.takeEvent e).rsc.credit = s.rsc.credit := by
  unfold State.takeEvent; (repeat' split) <;> first | rfl | simp
@[simp] theorem State.takeEvent_rsc_seq (e : FieldEvent) (s : State) : (s.takeEvent e).rsc.seq = s.rsc.seq := by
  unfold State.takeEvent; (repeat' split) <;> first | rfl | simp
@[simp] theorem State.takeEvent_sample_inputs (e : FieldEvent) (s : State) : (s.takeEvent e).sample.inputs = s.sample.inputs := by
  unfold State.takeEvent; (repeat' split) <;> first | rfl | simp
@[simp] theorem State.takeEvent_sample_inSample (e : FieldEvent) (s : State) : (s.takeEvent e).sample.inSample = s.sample.inSample := by
  unfold State.takeEvent; (repeat' split) <;> first | rfl | simp

/-! ### State.drainBy -/

@[simp] theorem State.drainBy_qdu_a (f : State → Option FieldEvent) (n : Nat) (s : State) : (State.drainBy f n s).qdu.a = s.qdu.a := by
  induction n generalizing s with
  | zero => rfl
  | succ n ih =>
    unfold State.drainBy; split
    · rw [ih]; simp
    · rfl
@[simp] theorem State.drainBy_qdu_b (f : State → Option FieldEvent) (n : Nat) (s : State) : (State.drainBy f n s).qdu.b = s.qdu.b := by
  induction n generalizing s with
  | zero => rfl
  | succ n ih =>
    unfold State.drainBy; split
    · rw [ih]; simp
    · rfl
@[simp] theorem State.drainBy_qdu_z (f : State → Option FieldEvent) (n : Nat) (s : State) : (State.drainBy f n s).qdu.z = s.qdu.z := by
  induction n generalizing s with
  | zero => rfl
  | succ n ih =>
    unfold State.drainBy; split
    · rw [ih]; simp
    · rfl
@[simp] theorem State.drainBy_pcu_axis (f : State → Option FieldEvent) (n : Nat) (s : State) : (State.drainBy f n s).pcu.axis = s.pcu.axis := by
  induction n generalizing s with
  | zero => rfl
  | succ n ih =>
    unfold State.drainBy; split
    · rw [ih]; simp
    · rfl
@[simp] theorem State.drainBy_rft_configured (f : State → Option FieldEvent) (n : Nat) (s : State) : (State.drainBy f n s).rft.configured = s.rft.configured := by
  induction n generalizing s with
  | zero => rfl
  | succ n ih =>
    unfold State.drainBy; split
    · rw [ih]; simp
    · rfl
@[simp] theorem State.drainBy_tsu_timebase (f : State → Option FieldEvent) (n : Nat) (s : State) : (State.drainBy f n s).tsu.timebase = s.tsu.timebase := by
  induction n generalizing s with
  | zero => rfl
  | succ n ih =>
    unfold State.drainBy; split
    · rw [ih]; simp
    · rfl
@[simp] theorem State.drainBy_tsu_ticking (f : State → Option FieldEvent) (n : Nat) (s : State) : (State.drainBy f n s).tsu.ticking = s.tsu.ticking := by
  induction n generalizing s with
  | zero => rfl
  | succ n ih =>
    unfold State.drainBy; split
    · rw [ih]; simp
    · rfl
@[simp] theorem State.drainBy_tsu_depth (f : State → Option FieldEvent) (n : Nat) (s : State) : (State.drainBy f n s).tsu.depth = s.tsu.depth := by
  induction n generalizing s with
  | zero => rfl
  | succ n ih =>
    unfold State.drainBy; split
    · rw [ih]; simp
    · rfl
@[simp] theorem State.drainBy_tsu_stallMs (f : State → Option FieldEvent) (n : Nat) (s : State) : (State.drainBy f n s).tsu.stallMs = s.tsu.stallMs := by
  induction n generalizing s with
  | zero => rfl
  | succ n ih =>
    unfold State.drainBy; split
    · rw [ih]; simp
    · rfl
@[simp] theorem State.drainBy_tsu_overspeedLimit (f : State → Option FieldEvent) (n : Nat) (s : State) : (State.drainBy f n s).tsu.overspeedLimit = s.tsu.overspeedLimit := by
  induction n generalizing s with
  | zero => rfl
  | succ n ih =>
    unfold State.drainBy; split
    · rw [ih]; simp
    · rfl
@[simp] theorem State.drainBy_cts_shadow (f : State → Option FieldEvent) (n : Nat) (s : State) : (State.drainBy f n s).cts.shadow = s.cts.shadow := by
  induction n generalizing s with
  | zero => rfl
  | succ n ih =>
    unfold State.drainBy; split
    · rw [ih]; simp
    · rfl
@[simp] theorem State.drainBy_bsc_nextTicket (f : State → Option FieldEvent) (n : Nat) (s : State) : (State.drainBy f n s).bsc.nextTicket = s.bsc.nextTicket := by
  induction n generalizing s with
  | zero => rfl
  | succ n ih =>
    unfold State.drainBy; split
    · rw [ih]; simp
    · rfl
@[simp] theorem State.drainBy_tev_enable (f : State → Option FieldEvent) (n : Nat) (s : State) : (State.drainBy f n s).tev.enable = s.tev.enable := by
  induction n generalizing s with
  | zero => rfl
  | succ n ih =>
    unfold State.drainBy; split
    · rw [ih]; simp
    · rfl
@[simp] theorem State.drainBy_rsc_enable (f : State → Option FieldEvent) (n : Nat) (s : State) : (State.drainBy f n s).rsc.enable = s.rsc.enable := by
  induction n generalizing s with
  | zero => rfl
  | succ n ih =>
    unfold State.drainBy; split
    · rw [ih]; simp
    · rfl
@[simp] theorem State.drainBy_rsc_fault (f : State → Option FieldEvent) (n : Nat) (s : State) : (State.drainBy f n s).rsc.fault = s.rsc.fault := by
  induction n generalizing s with
  | zero => rfl
  | succ n ih =>
    unfold State.drainBy; split
    · rw [ih]; simp
    · rfl
@[simp] theorem State.drainBy_rsc_motion (f : State → Option FieldEvent) (n : Nat) (s : State) : (State.drainBy f n s).rsc.motion = s.rsc.motion := by
  induction n generalizing s with
  | zero => rfl
  | succ n ih =>
    unfold State.drainBy; split
    · rw [ih]; simp
    · rfl
@[simp] theorem State.drainBy_rsc_intervalMs (f : State → Option FieldEvent) (n : Nat) (s : State) : (State.drainBy f n s).rsc.intervalMs = s.rsc.intervalMs := by
  induction n generalizing s with
  | zero => rfl
  | succ n ih =>
    unfold State.drainBy; split
    · rw [ih]; simp
    · rfl
@[simp] theorem State.drainBy_rsc_hello (f : State → Option FieldEvent) (n : Nat) (s : State) : (State.drainBy f n s).rsc.hello = s.rsc.hello := by
  induction n generalizing s with
  | zero => rfl
  | succ n ih =>
    unfold State.drainBy; split
    · rw [ih]; simp
    · rfl
@[simp] theorem State.drainBy_rsc_credit (f : State → Option FieldEvent) (n : Nat) (s : State) : (State.drainBy f n s).rsc.credit = s.rsc.credit := by
  induction n generalizing s with
  | zero => rfl
  | succ n ih =>
    unfold State.drainBy; split
    · rw [ih]; simp
    · rfl
@[simp] theorem State.drainBy_rsc_seq (f : State → Option FieldEvent) (n : Nat) (s : State) : (State.drainBy f n s).rsc.seq = s.rsc.seq := by
  induction n generalizing s with
  | zero => rfl
  | succ n ih =>
    unfold State.drainBy; split
    · rw [ih]; simp
    · rfl
@[simp] theorem State.drainBy_sample_inputs (f : State → Option FieldEvent) (n : Nat) (s : State) : (State.drainBy f n s).sample.inputs = s.sample.inputs := by
  induction n generalizing s with
  | zero => rfl
  | succ n ih =>
    unfold State.drainBy; split
    · rw [ih]; simp
    · rfl
@[simp] theorem State.drainBy_sample_inSample (f : State → Option FieldEvent) (n : Nat) (s : State) : (State.drainBy f n s).sample.inSample = s.sample.inSample := by
  induction n generalizing s with
  | zero => rfl
  | succ n ih =>
    unfold State.drainBy; split
    · rw [ih]; simp
    · rfl

/-! ### State.drain -/

@[simp] theorem State.drain_qdu_a (n : Nat) (s : State) : (State.drain n s).qdu.a = s.qdu.a := by
  unfold State.drain; simp
@[simp] theorem State.drain_qdu_b (n : Nat) (s : State) : (State.drain n s).qdu.b = s.qdu.b := by
  unfold State.drain; simp
@[simp] theorem State.drain_qdu_z (n : Nat) (s : State) : (State.drain n s).qdu.z = s.qdu.z := by
  unfold State.drain; simp
@[simp] theorem State.drain_pcu_axis (n : Nat) (s : State) : (State.drain n s).pcu.axis = s.pcu.axis := by
  unfold State.drain; simp
@[simp] theorem State.drain_rft_configured (n : Nat) (s : State) : (State.drain n s).rft.configured = s.rft.configured := by
  unfold State.drain; simp
@[simp] theorem State.drain_tsu_timebase (n : Nat) (s : State) : (State.drain n s).tsu.timebase = s.tsu.timebase := by
  unfold State.drain; simp
@[simp] theorem State.drain_tsu_ticking (n : Nat) (s : State) : (State.drain n s).tsu.ticking = s.tsu.ticking := by
  unfold State.drain; simp
@[simp] theorem State.drain_tsu_depth (n : Nat) (s : State) : (State.drain n s).tsu.depth = s.tsu.depth := by
  unfold State.drain; simp
@[simp] theorem State.drain_tsu_stallMs (n : Nat) (s : State) : (State.drain n s).tsu.stallMs = s.tsu.stallMs := by
  unfold State.drain; simp
@[simp] theorem State.drain_tsu_overspeedLimit (n : Nat) (s : State) : (State.drain n s).tsu.overspeedLimit = s.tsu.overspeedLimit := by
  unfold State.drain; simp
@[simp] theorem State.drain_cts_shadow (n : Nat) (s : State) : (State.drain n s).cts.shadow = s.cts.shadow := by
  unfold State.drain; simp
@[simp] theorem State.drain_bsc_nextTicket (n : Nat) (s : State) : (State.drain n s).bsc.nextTicket = s.bsc.nextTicket := by
  unfold State.drain; simp
@[simp] theorem State.drain_tev_enable (n : Nat) (s : State) : (State.drain n s).tev.enable = s.tev.enable := by
  unfold State.drain; simp
@[simp] theorem State.drain_rsc_enable (n : Nat) (s : State) : (State.drain n s).rsc.enable = s.rsc.enable := by
  unfold State.drain; simp
@[simp] theorem State.drain_rsc_fault (n : Nat) (s : State) : (State.drain n s).rsc.fault = s.rsc.fault := by
  unfold State.drain; simp
@[simp] theorem State.drain_rsc_motion (n : Nat) (s : State) : (State.drain n s).rsc.motion = s.rsc.motion := by
  unfold State.drain; simp
@[simp] theorem State.drain_rsc_intervalMs (n : Nat) (s : State) : (State.drain n s).rsc.intervalMs = s.rsc.intervalMs := by
  unfold State.drain; simp
@[simp] theorem State.drain_rsc_hello (n : Nat) (s : State) : (State.drain n s).rsc.hello = s.rsc.hello := by
  unfold State.drain; simp
@[simp] theorem State.drain_rsc_credit (n : Nat) (s : State) : (State.drain n s).rsc.credit = s.rsc.credit := by
  unfold State.drain; simp
@[simp] theorem State.drain_rsc_seq (n : Nat) (s : State) : (State.drain n s).rsc.seq = s.rsc.seq := by
  unfold State.drain; simp
@[simp] theorem State.drain_sample_inputs (n : Nat) (s : State) : (State.drain n s).sample.inputs = s.sample.inputs := by
  unfold State.drain; simp
@[simp] theorem State.drain_sample_inSample (n : Nat) (s : State) : (State.drain n s).sample.inSample = s.sample.inSample := by
  unfold State.drain; simp

/-! ### State.catchUp -/

@[simp] theorem State.catchUp_qdu_a (s : State) : (s.catchUp).qdu.a = s.qdu.a := by
  unfold State.catchUp; split <;> simp
@[simp] theorem State.catchUp_qdu_b (s : State) : (s.catchUp).qdu.b = s.qdu.b := by
  unfold State.catchUp; split <;> simp
@[simp] theorem State.catchUp_qdu_z (s : State) : (s.catchUp).qdu.z = s.qdu.z := by
  unfold State.catchUp; split <;> simp
@[simp] theorem State.catchUp_pcu_axis (s : State) : (s.catchUp).pcu.axis = s.pcu.axis := by
  unfold State.catchUp; split <;> simp
@[simp] theorem State.catchUp_rft_configured (s : State) : (s.catchUp).rft.configured = s.rft.configured := by
  unfold State.catchUp; split <;> simp
@[simp] theorem State.catchUp_tsu_timebase (s : State) : (s.catchUp).tsu.timebase = s.tsu.timebase := by
  unfold State.catchUp; split <;> simp
@[simp] theorem State.catchUp_tsu_ticking (s : State) : (s.catchUp).tsu.ticking = s.tsu.ticking := by
  unfold State.catchUp; split <;> simp
@[simp] theorem State.catchUp_tsu_depth (s : State) : (s.catchUp).tsu.depth = s.tsu.depth := by
  unfold State.catchUp; split <;> simp
@[simp] theorem State.catchUp_tsu_stallMs (s : State) : (s.catchUp).tsu.stallMs = s.tsu.stallMs := by
  unfold State.catchUp; split <;> simp
@[simp] theorem State.catchUp_tsu_overspeedLimit (s : State) : (s.catchUp).tsu.overspeedLimit = s.tsu.overspeedLimit := by
  unfold State.catchUp; split <;> simp
@[simp] theorem State.catchUp_cts_shadow (s : State) : (s.catchUp).cts.shadow = s.cts.shadow := by
  unfold State.catchUp; split <;> simp
@[simp] theorem State.catchUp_bsc_nextTicket (s : State) : (s.catchUp).bsc.nextTicket = s.bsc.nextTicket := by
  unfold State.catchUp; split <;> simp
@[simp] theorem State.catchUp_tev_enable (s : State) : (s.catchUp).tev.enable = s.tev.enable := by
  unfold State.catchUp; split <;> simp
@[simp] theorem State.catchUp_rsc_enable (s : State) : (s.catchUp).rsc.enable = s.rsc.enable := by
  unfold State.catchUp; split <;> simp
@[simp] theorem State.catchUp_rsc_fault (s : State) : (s.catchUp).rsc.fault = s.rsc.fault := by
  unfold State.catchUp; split <;> simp
@[simp] theorem State.catchUp_rsc_motion (s : State) : (s.catchUp).rsc.motion = s.rsc.motion := by
  unfold State.catchUp; split <;> simp
@[simp] theorem State.catchUp_rsc_intervalMs (s : State) : (s.catchUp).rsc.intervalMs = s.rsc.intervalMs := by
  unfold State.catchUp; split <;> simp
@[simp] theorem State.catchUp_rsc_hello (s : State) : (s.catchUp).rsc.hello = s.rsc.hello := by
  unfold State.catchUp; split <;> simp
@[simp] theorem State.catchUp_rsc_credit (s : State) : (s.catchUp).rsc.credit = s.rsc.credit := by
  unfold State.catchUp; split <;> simp
@[simp] theorem State.catchUp_rsc_seq (s : State) : (s.catchUp).rsc.seq = s.rsc.seq := by
  unfold State.catchUp; split <;> simp
@[simp] theorem State.catchUp_sample_inputs (s : State) : (s.catchUp).sample.inputs = s.sample.inputs := by
  unfold State.catchUp; split <;> simp


/-! ### State.closeSample -/

@[simp] theorem State.closeSample_qdu_a (s : State) : (s.closeSample).qdu.a = s.qdu.a := by
  unfold State.closeSample; split <;> simp
@[simp] theorem State.closeSample_qdu_b (s : State) : (s.closeSample).qdu.b = s.qdu.b := by
  unfold State.closeSample; split <;> simp
@[simp] theorem State.closeSample_qdu_z (s : State) : (s.closeSample).qdu.z = s.qdu.z := by
  unfold State.closeSample; split <;> simp
@[simp] theorem State.closeSample_pcu_axis (s : State) : (s.closeSample).pcu.axis = s.pcu.axis := by
  unfold State.closeSample; split <;> simp
@[simp] theorem State.closeSample_rft_configured (s : State) : (s.closeSample).rft.configured = s.rft.configured := by
  unfold State.closeSample; split <;> simp
@[simp] theorem State.closeSample_tsu_timebase (s : State) : (s.closeSample).tsu.timebase = s.tsu.timebase := by
  unfold State.closeSample; split <;> simp
@[simp] theorem State.closeSample_tsu_ticking (s : State) : (s.closeSample).tsu.ticking = s.tsu.ticking := by
  unfold State.closeSample; split <;> simp
@[simp] theorem State.closeSample_tsu_depth (s : State) : (s.closeSample).tsu.depth = s.tsu.depth := by
  unfold State.closeSample; split <;> simp
@[simp] theorem State.closeSample_tsu_stallMs (s : State) : (s.closeSample).tsu.stallMs = s.tsu.stallMs := by
  unfold State.closeSample; split <;> simp
@[simp] theorem State.closeSample_tsu_overspeedLimit (s : State) : (s.closeSample).tsu.overspeedLimit = s.tsu.overspeedLimit := by
  unfold State.closeSample; split <;> simp
@[simp] theorem State.closeSample_cts_shadow (s : State) : (s.closeSample).cts.shadow = s.cts.shadow := by
  unfold State.closeSample; split <;> simp
@[simp] theorem State.closeSample_bsc_nextTicket (s : State) : (s.closeSample).bsc.nextTicket = s.bsc.nextTicket := by
  unfold State.closeSample; split <;> simp
@[simp] theorem State.closeSample_tev_enable (s : State) : (s.closeSample).tev.enable = s.tev.enable := by
  unfold State.closeSample; split <;> simp
@[simp] theorem State.closeSample_rsc_enable (s : State) : (s.closeSample).rsc.enable = s.rsc.enable := by
  unfold State.closeSample; split <;> simp
@[simp] theorem State.closeSample_rsc_fault (s : State) : (s.closeSample).rsc.fault = s.rsc.fault := by
  unfold State.closeSample; split <;> simp
@[simp] theorem State.closeSample_rsc_motion (s : State) : (s.closeSample).rsc.motion = s.rsc.motion := by
  unfold State.closeSample; split <;> simp
@[simp] theorem State.closeSample_rsc_intervalMs (s : State) : (s.closeSample).rsc.intervalMs = s.rsc.intervalMs := by
  unfold State.closeSample; split <;> simp
@[simp] theorem State.closeSample_rsc_hello (s : State) : (s.closeSample).rsc.hello = s.rsc.hello := by
  unfold State.closeSample; split <;> simp
@[simp] theorem State.closeSample_rsc_credit (s : State) : (s.closeSample).rsc.credit = s.rsc.credit := by
  unfold State.closeSample; split <;> simp
@[simp] theorem State.closeSample_rsc_seq (s : State) : (s.closeSample).rsc.seq = s.rsc.seq := by
  unfold State.closeSample; split <;> simp
@[simp] theorem State.closeSample_sample_inputs (s : State) : (s.closeSample).sample.inputs = s.sample.inputs := by
  unfold State.closeSample; split <;> simp

/-! ### State.sampleInputs -/

@[simp] theorem State.sampleInputs_tsu_history (lv : Levels) (s : State) : (s.sampleInputs lv).tsu.history = s.tsu.history :=
  rfl
@[simp] theorem State.sampleInputs_tsu_lastDir (lv : Levels) (s : State) : (s.sampleInputs lv).tsu.lastDir = s.tsu.lastDir :=
  rfl
@[simp] theorem State.sampleInputs_tsu_estimate (lv : Levels) (s : State) : (s.sampleInputs lv).tsu.estimate = s.tsu.estimate :=
  rfl
@[simp] theorem State.sampleInputs_tsu_presented (lv : Levels) (s : State) : (s.sampleInputs lv).tsu.presented = s.tsu.presented :=
  rfl
@[simp] theorem State.sampleInputs_tsu_stalled (lv : Levels) (s : State) : (s.sampleInputs lv).tsu.stalled = s.tsu.stalled :=
  rfl
@[simp] theorem State.sampleInputs_tsu_overspeed (lv : Levels) (s : State) : (s.sampleInputs lv).tsu.overspeed = s.tsu.overspeed :=
  rfl
@[simp] theorem State.sampleInputs_tsu_depth (lv : Levels) (s : State) : (s.sampleInputs lv).tsu.depth = s.tsu.depth :=
  rfl
@[simp] theorem State.sampleInputs_tsu_stallMs (lv : Levels) (s : State) : (s.sampleInputs lv).tsu.stallMs = s.tsu.stallMs :=
  rfl
@[simp] theorem State.sampleInputs_tsu_overspeedLimit (lv : Levels) (s : State) : (s.sampleInputs lv).tsu.overspeedLimit = s.tsu.overspeedLimit :=
  rfl
@[simp] theorem State.sampleInputs_lcu_queue (lv : Levels) (s : State) : (s.sampleInputs lv).lcu.queue = s.lcu.queue :=
  rfl
@[simp] theorem State.sampleInputs_lcu_tally (lv : Levels) (s : State) : (s.sampleInputs lv).lcu.tally = s.lcu.tally :=
  rfl
@[simp] theorem State.sampleInputs_rsc_enable (lv : Levels) (s : State) : (s.sampleInputs lv).rsc.enable = s.rsc.enable := by
  unfold State.sampleInputs; simp
@[simp] theorem State.sampleInputs_rsc_intervalMs (lv : Levels) (s : State) : (s.sampleInputs lv).rsc.intervalMs = s.rsc.intervalMs := by
  unfold State.sampleInputs; simp
@[simp] theorem State.sampleInputs_rsc_timer (lv : Levels) (s : State) : (s.sampleInputs lv).rsc.timer = s.rsc.timer := by
  unfold State.sampleInputs; simp
@[simp] theorem State.sampleInputs_rsc_hello (lv : Levels) (s : State) : (s.sampleInputs lv).rsc.hello = s.rsc.hello := by
  unfold State.sampleInputs; simp
@[simp] theorem State.sampleInputs_rsc_position (lv : Levels) (s : State) : (s.sampleInputs lv).rsc.position = s.rsc.position := by
  unfold State.sampleInputs; simp
@[simp] theorem State.sampleInputs_rsc_inFlight (lv : Levels) (s : State) : (s.sampleInputs lv).rsc.inFlight = s.rsc.inFlight := by
  unfold State.sampleInputs; simp
theorem State.sampleInputs_rsc_waiting (lv : Levels) (s : State) :
    (s.sampleInputs lv).rsc.waiting.Perm s.rsc.waiting := by
  have h := Rsc.ordered_perm (Config.completionOrder s.free) s.rsc.takenAll
  rwa [Rsc.takenAll_waiting] at h
@[simp] theorem State.sampleInputs_rsc_recent (lv : Levels) (s : State) : (s.sampleInputs lv).rsc.recent = 0 := rfl
@[simp] theorem State.sampleInputs_rsc_credit (lv : Levels) (s : State) : (s.sampleInputs lv).rsc.credit = s.rsc.credit := by
  unfold State.sampleInputs; simp
@[simp] theorem State.sampleInputs_rsc_seq (lv : Levels) (s : State) : (s.sampleInputs lv).rsc.seq = s.rsc.seq := by
  unfold State.sampleInputs; simp

/-! ### State.takeSample -/

@[simp] theorem State.takeSample_pcu_axis (lv : Levels) (s : State) : (s.takeSample lv).pcu.axis = s.pcu.axis := by
  unfold State.takeSample; simp
@[simp] theorem State.takeSample_rft_configured (lv : Levels) (s : State) : (s.takeSample lv).rft.configured = s.rft.configured := by
  unfold State.takeSample; simp
@[simp] theorem State.takeSample_tsu_depth (lv : Levels) (s : State) : (s.takeSample lv).tsu.depth = s.tsu.depth := by
  unfold State.takeSample; simp
@[simp] theorem State.takeSample_tsu_stallMs (lv : Levels) (s : State) : (s.takeSample lv).tsu.stallMs = s.tsu.stallMs := by
  unfold State.takeSample; simp
@[simp] theorem State.takeSample_tsu_overspeedLimit (lv : Levels) (s : State) : (s.takeSample lv).tsu.overspeedLimit = s.tsu.overspeedLimit := by
  unfold State.takeSample; simp
@[simp] theorem State.takeSample_cts_shadow (lv : Levels) (s : State) : (s.takeSample lv).cts.shadow = s.cts.shadow := by
  unfold State.takeSample; simp
@[simp] theorem State.takeSample_bsc_nextTicket (lv : Levels) (s : State) : (s.takeSample lv).bsc.nextTicket = s.bsc.nextTicket := by
  unfold State.takeSample; simp
@[simp] theorem State.takeSample_tev_enable (lv : Levels) (s : State) : (s.takeSample lv).tev.enable = s.tev.enable := by
  unfold State.takeSample; simp
@[simp] theorem State.takeSample_rsc_enable (lv : Levels) (s : State) : (s.takeSample lv).rsc.enable = s.rsc.enable := by
  unfold State.takeSample; simp
@[simp] theorem State.takeSample_rsc_intervalMs (lv : Levels) (s : State) : (s.takeSample lv).rsc.intervalMs = s.rsc.intervalMs := by
  unfold State.takeSample; simp
@[simp] theorem State.takeSample_rsc_hello (lv : Levels) (s : State) : (s.takeSample lv).rsc.hello = s.rsc.hello := by
  unfold State.takeSample; simp
@[simp] theorem State.takeSample_rsc_credit (lv : Levels) (s : State) : (s.takeSample lv).rsc.credit = s.rsc.credit := by
  unfold State.takeSample; simp
@[simp] theorem State.takeSample_rsc_seq (lv : Levels) (s : State) : (s.takeSample lv).rsc.seq = s.rsc.seq := by
  unfold State.takeSample; simp

/-! ### State.takeReports -/

@[simp] theorem State.takeReports_rsc_enable (s : State) : s.takeReports.rsc.enable = s.rsc.enable := by
  unfold State.takeReports; simp
@[simp] theorem State.takeReports_rsc_intervalMs (s : State) : s.takeReports.rsc.intervalMs = s.rsc.intervalMs := by
  unfold State.takeReports; simp
@[simp] theorem State.takeReports_rsc_timer (s : State) : s.takeReports.rsc.timer = s.rsc.timer := by
  unfold State.takeReports; simp
@[simp] theorem State.takeReports_rsc_hello (s : State) : s.takeReports.rsc.hello = s.rsc.hello := by
  unfold State.takeReports; simp
@[simp] theorem State.takeReports_rsc_position (s : State) : s.takeReports.rsc.position = s.rsc.position := by
  unfold State.takeReports; simp
@[simp] theorem State.takeReports_rsc_inFlight (s : State) : s.takeReports.rsc.inFlight = s.rsc.inFlight := by
  unfold State.takeReports; simp
@[simp] theorem State.takeReports_rsc_waiting (s : State) : s.takeReports.rsc.waiting = s.rsc.waiting := by
  unfold State.takeReports; simp
@[simp] theorem State.takeReports_rsc_credit (s : State) : s.takeReports.rsc.credit = s.rsc.credit := by
  unfold State.takeReports; simp
@[simp] theorem State.takeReports_rsc_seq (s : State) : s.takeReports.rsc.seq = s.rsc.seq := by
  unfold State.takeReports; simp

@[simp] theorem State.takeReports_rsc_sync (s : State) : s.takeReports.rsc.sync = s.rsc.sync := by
  unfold State.takeReports; simp

/-! ### State.beforeHandOver -/

@[simp] theorem State.beforeHandOver_rsc_sync (k : ReportKind) (s : State) : (s.beforeHandOver k).rsc.sync = s.rsc.sync := by
  simp [State.beforeHandOver, State.closeViews]
@[simp] theorem State.beforeHandOver_rsc_enable (k : ReportKind) (s : State) : (s.beforeHandOver k).rsc.enable = s.rsc.enable := by
  simp [State.beforeHandOver, State.closeViews]
@[simp] theorem State.beforeHandOver_rsc_intervalMs (k : ReportKind) (s : State) : (s.beforeHandOver k).rsc.intervalMs = s.rsc.intervalMs := by
  simp [State.beforeHandOver, State.closeViews]
@[simp] theorem State.beforeHandOver_rsc_timer (k : ReportKind) (s : State) : (s.beforeHandOver k).rsc.timer = s.rsc.timer := by
  simp [State.beforeHandOver, State.closeViews]
@[simp] theorem State.beforeHandOver_rsc_hello (k : ReportKind) (s : State) : (s.beforeHandOver k).rsc.hello = s.rsc.hello := by
  simp [State.beforeHandOver, State.closeViews]
@[simp] theorem State.beforeHandOver_rsc_position (k : ReportKind) (s : State) : (s.beforeHandOver k).rsc.position = s.rsc.position := by
  simp [State.beforeHandOver, State.closeViews]
@[simp] theorem State.beforeHandOver_rsc_inFlight (k : ReportKind) (s : State) : (s.beforeHandOver k).rsc.inFlight = s.rsc.inFlight := by
  simp [State.beforeHandOver, State.closeViews]
@[simp] theorem State.beforeHandOver_rsc_waiting (k : ReportKind) (s : State) : (s.beforeHandOver k).rsc.waiting = s.rsc.waiting := by
  simp [State.beforeHandOver, State.closeViews]
@[simp] theorem State.beforeHandOver_rsc_credit (k : ReportKind) (s : State) : (s.beforeHandOver k).rsc.credit = s.rsc.credit := by
  simp [State.beforeHandOver, State.closeViews]
@[simp] theorem State.beforeHandOver_rsc_seq (k : ReportKind) (s : State) : (s.beforeHandOver k).rsc.seq = s.rsc.seq := by
  simp [State.beforeHandOver, State.closeViews]

/-- The report that is next with every event folded can be sent also where some of its own events come after it. -/
theorem State.beforeHandOver_sendable (k : ReportKind) (s : State) (h : s.takeReports.kindSendable k = true) :
    (s.beforeHandOver k).kindSendable k = true := by
  have hp : s.takeReports.kindPending k = true → (s.beforeHandOver k).kindPending k = true := by
    intro hp
    unfold State.beforeHandOver Rsc.beforeReport
    split
    · cases k <;> exact hp
    · rename_i hn
      cases k
      case fault => simpa [Rsc.nothingFor, State.kindPending] using hn
      case motion => simpa [Rsc.nothingFor, State.kindPending] using hn
      all_goals simpa [State.kindPending, State.takeReports, State.closeViews] using hp
  unfold State.kindSendable at h ⊢
  simp only [Bool.and_eq_true, State.beforeHandOver_rsc_credit, State.takeReports_rsc_credit] at h ⊢
  exact ⟨hp h.1, h.2⟩

/-! ### State.handOverKind -/

@[simp] theorem State.handOverKind_lcu_latches (k : ReportKind) (s : State) : (s.handOverKind k).lcu.latches = s.lcu.latches :=
  rfl
@[simp] theorem State.handOverKind_lcu_tally (k : ReportKind) (s : State) : (s.handOverKind k).lcu.tally = s.lcu.tally :=
  rfl
@[simp] theorem State.handOverKind_rsc_enable (k : ReportKind) (s : State) : (s.handOverKind k).rsc.enable = s.rsc.enable :=
  rfl
@[simp] theorem State.handOverKind_rsc_fresh (k : ReportKind) (s : State) : (s.handOverKind k).rsc.fresh = s.rsc.fresh :=
  rfl
@[simp] theorem State.handOverKind_rsc_intervalMs (k : ReportKind) (s : State) : (s.handOverKind k).rsc.intervalMs = s.rsc.intervalMs :=
  rfl
@[simp] theorem State.handOverKind_rsc_timer (k : ReportKind) (s : State) : (s.handOverKind k).rsc.timer = s.rsc.timer :=
  rfl
@[simp] theorem State.handOverKind_rsc_inFlight (k : ReportKind) (s : State) : (s.handOverKind k).rsc.inFlight = s.rsc.inFlight :=
  rfl
@[simp] theorem State.handOverKind_lkp_straps (k : ReportKind) (s : State) : (s.handOverKind k).lkp.straps = s.lkp.straps :=
  rfl
@[simp] theorem State.handOverKind_lkp_rx (k : ReportKind) (s : State) : (s.handOverKind k).lkp.rx = s.lkp.rx := rfl
@[simp] theorem State.handOverKind_lkp_rxLine (k : ReportKind) (s : State) : (s.handOverKind k).lkp.rxLine = s.lkp.rxLine :=
  rfl
@[simp] theorem State.handOverKind_lkp_gapTimer (k : ReportKind) (s : State) : (s.handOverKind k).lkp.gapTimer = s.lkp.gapTimer :=
  rfl
@[simp] theorem State.handOverKind_lkp_inbound (k : ReportKind) (s : State) : (s.handOverKind k).lkp.inbound = s.lkp.inbound :=
  rfl
@[simp] theorem State.handOverKind_lkp_replies (k : ReportKind) (s : State) : (s.handOverKind k).lkp.replies = s.lkp.replies :=
  rfl
@[simp] theorem State.handOverKind_lkp_cache (k : ReportKind) (s : State) : (s.handOverKind k).lkp.cache = s.lkp.cache :=
  rfl
@[simp] theorem State.handOverKind_lkp_counters (k : ReportKind) (s : State) : (s.handOverKind k).lkp.counters = s.lkp.counters :=
  rfl
@[simp] theorem State.handOverKind_lkp_resetPending (k : ReportKind) (s : State) : (s.handOverKind k).lkp.resetPending = s.lkp.resetPending :=
  rfl
@[simp] theorem State.handOverKind_lkp_resetCount (k : ReportKind) (s : State) : (s.handOverKind k).lkp.resetCount = s.lkp.resetCount :=
  rfl
@[simp] theorem State.handOverKind_lkp_resetCause (k : ReportKind) (s : State) : (s.handOverKind k).lkp.resetCause = s.lkp.resetCause :=
  rfl

/-! ### State.orderFor -/

@[simp] theorem State.orderFor_rsc_enable (k : ReportKind) (s : State) : (s.orderFor k).rsc.enable = s.rsc.enable := by
  unfold State.orderFor; dsimp only; split <;> simp
@[simp] theorem State.orderFor_rsc_intervalMs (k : ReportKind) (s : State) : (s.orderFor k).rsc.intervalMs = s.rsc.intervalMs := by
  unfold State.orderFor; dsimp only; split <;> simp
@[simp] theorem State.orderFor_rsc_timer (k : ReportKind) (s : State) : (s.orderFor k).rsc.timer = s.rsc.timer := by
  unfold State.orderFor; dsimp only; split <;> simp
@[simp] theorem State.orderFor_rsc_hello (k : ReportKind) (s : State) : (s.orderFor k).rsc.hello = s.rsc.hello := by
  unfold State.orderFor; dsimp only; split <;> simp
@[simp] theorem State.orderFor_rsc_sync (k : ReportKind) (s : State) : (s.orderFor k).rsc.sync = s.rsc.sync := by
  unfold State.orderFor; dsimp only; split <;> simp
@[simp] theorem State.orderFor_rsc_fault (k : ReportKind) (s : State) : (s.orderFor k).rsc.fault = s.rsc.fault := by
  unfold State.orderFor; dsimp only; split <;> simp
@[simp] theorem State.orderFor_rsc_motion (k : ReportKind) (s : State) : (s.orderFor k).rsc.motion = s.rsc.motion := by
  unfold State.orderFor; dsimp only; split <;> simp
@[simp] theorem State.orderFor_rsc_position (k : ReportKind) (s : State) : (s.orderFor k).rsc.position = s.rsc.position := by
  unfold State.orderFor; dsimp only; split <;> simp
@[simp] theorem State.orderFor_rsc_fresh (k : ReportKind) (s : State) : (s.orderFor k).rsc.fresh = s.rsc.fresh := by
  unfold State.orderFor; dsimp only; split <;> simp
@[simp] theorem State.orderFor_rsc_inFlight (k : ReportKind) (s : State) : (s.orderFor k).rsc.inFlight = s.rsc.inFlight := by
  unfold State.orderFor; dsimp only; split <;> simp
@[simp] theorem State.orderFor_rsc_credit (k : ReportKind) (s : State) : (s.orderFor k).rsc.credit = s.rsc.credit := by
  unfold State.orderFor; dsimp only; split <;> simp
@[simp] theorem State.orderFor_rsc_seq (k : ReportKind) (s : State) : (s.orderFor k).rsc.seq = s.rsc.seq := by
  unfold State.orderFor; dsimp only; split <;> simp

/-- Settling the order for a report keeps the completions. -/
theorem State.orderFor_rsc_waiting (k : ReportKind) (s : State) : (s.orderFor k).rsc.waiting.Perm s.rsc.waiting := by
  unfold State.orderFor
  dsimp only
  split
  · exact Rsc.ordered_perm _ _
  · exact .refl _

/-- A kind that can be sent can still be sent once the order is settled. -/
theorem State.orderFor_sendable (k : ReportKind) (s : State) (h : s.kindSendable k = true) :
    (s.orderFor k).kindSendable k = true := by
  cases k
  case done =>
    have e := (s.orderFor_rsc_waiting .done).isEmpty_eq
    simpa [State.kindSendable, State.kindPending, e] using h
  all_goals exact h

/-! ### State.grantLine -/

@[simp] theorem State.grantLine_lcu_latches (s : State) : (s.grantLine).lcu.latches = s.lcu.latches := by
  unfold State.grantLine; (repeat' split) <;> rfl
@[simp] theorem State.grantLine_lcu_tally (s : State) : (s.grantLine).lcu.tally = s.lcu.tally := by
  unfold State.grantLine; (repeat' split) <;> rfl
@[simp] theorem State.grantLine_rsc_enable (s : State) : (s.grantLine).rsc.enable = s.rsc.enable := by
  unfold State.grantLine; (repeat' split) <;> simp
@[simp] theorem State.grantLine_rsc_intervalMs (s : State) : (s.grantLine).rsc.intervalMs = s.rsc.intervalMs := by
  unfold State.grantLine; (repeat' split) <;> simp
@[simp] theorem State.grantLine_rsc_timer (s : State) : (s.grantLine).rsc.timer = s.rsc.timer := by
  unfold State.grantLine; (repeat' split) <;> simp
@[simp] theorem State.grantLine_rsc_inFlight (s : State) : (s.grantLine).rsc.inFlight = s.rsc.inFlight := by
  unfold State.grantLine; (repeat' split) <;> simp
@[simp] theorem State.grantLine_lkp_straps (s : State) : (s.grantLine).lkp.straps = s.lkp.straps := by
  unfold State.grantLine; (repeat' split) <;> rfl
@[simp] theorem State.grantLine_lkp_rx (s : State) : (s.grantLine).lkp.rx = s.lkp.rx := by
  unfold State.grantLine; (repeat' split) <;> rfl
@[simp] theorem State.grantLine_lkp_rxLine (s : State) : (s.grantLine).lkp.rxLine = s.lkp.rxLine := by
  unfold State.grantLine; (repeat' split) <;> rfl
@[simp] theorem State.grantLine_lkp_gapTimer (s : State) : (s.grantLine).lkp.gapTimer = s.lkp.gapTimer := by
  unfold State.grantLine; (repeat' split) <;> rfl
@[simp] theorem State.grantLine_lkp_inbound (s : State) : (s.grantLine).lkp.inbound = s.lkp.inbound := by
  unfold State.grantLine; (repeat' split) <;> rfl
@[simp] theorem State.grantLine_lkp_replies (s : State) : (s.grantLine).lkp.replies = s.lkp.replies := by
  unfold State.grantLine; (repeat' split) <;> rfl
@[simp] theorem State.grantLine_lkp_cache (s : State) : (s.grantLine).lkp.cache = s.lkp.cache := by
  unfold State.grantLine; (repeat' split) <;> rfl
@[simp] theorem State.grantLine_lkp_counters (s : State) : (s.grantLine).lkp.counters = s.lkp.counters := by
  unfold State.grantLine; (repeat' split) <;> rfl
@[simp] theorem State.grantLine_lkp_resetPending (s : State) : (s.grantLine).lkp.resetPending = s.lkp.resetPending := by
  unfold State.grantLine; (repeat' split) <;> rfl
@[simp] theorem State.grantLine_lkp_resetCount (s : State) : (s.grantLine).lkp.resetCount = s.lkp.resetCount := by
  unfold State.grantLine; (repeat' split) <;> rfl
@[simp] theorem State.grantLine_lkp_resetCause (s : State) : (s.grantLine).lkp.resetCause = s.lkp.resetCause := by
  unfold State.grantLine; (repeat' split) <;> rfl

/-! ### State.reply -/

@[simp] theorem State.reply_lkp_straps (r : Request) (a : Answer) (s : State) : (s.reply r a).lkp.straps = s.lkp.straps := by
  unfold State.reply; simp
@[simp] theorem State.reply_lkp_rx (r : Request) (a : Answer) (s : State) : (s.reply r a).lkp.rx = s.lkp.rx := by
  unfold State.reply; simp
@[simp] theorem State.reply_lkp_rxLine (r : Request) (a : Answer) (s : State) : (s.reply r a).lkp.rxLine = s.lkp.rxLine := by
  unfold State.reply; simp
@[simp] theorem State.reply_lkp_gapTimer (r : Request) (a : Answer) (s : State) : (s.reply r a).lkp.gapTimer = s.lkp.gapTimer := by
  unfold State.reply; simp
@[simp] theorem State.reply_lkp_inbound (r : Request) (a : Answer) (s : State) : (s.reply r a).lkp.inbound = s.lkp.inbound := by
  unfold State.reply; simp
@[simp] theorem State.reply_lkp_counters (r : Request) (a : Answer) (s : State) : (s.reply r a).lkp.counters = s.lkp.counters := by
  unfold State.reply; simp
@[simp] theorem State.reply_lkp_resetPending (r : Request) (a : Answer) (s : State) : (s.reply r a).lkp.resetPending = s.lkp.resetPending := by
  unfold State.reply; simp
@[simp] theorem State.reply_lkp_resetCount (r : Request) (a : Answer) (s : State) : (s.reply r a).lkp.resetCount = s.lkp.resetCount := by
  unfold State.reply; simp
@[simp] theorem State.reply_lkp_resetCause (r : Request) (a : Answer) (s : State) : (s.reply r a).lkp.resetCause = s.lkp.resetCause := by
  unfold State.reply; simp

/-! ### State.takeRequest -/

@[simp] theorem State.takeRequest_lkp_straps (rest : List Request) (s : State) : (s.takeRequest rest).lkp.straps = s.lkp.straps :=
  rfl
@[simp] theorem State.takeRequest_lkp_rx (rest : List Request) (s : State) : (s.takeRequest rest).lkp.rx = s.lkp.rx :=
  rfl
@[simp] theorem State.takeRequest_lkp_rxLine (rest : List Request) (s : State) : (s.takeRequest rest).lkp.rxLine = s.lkp.rxLine :=
  rfl
@[simp] theorem State.takeRequest_lkp_gapTimer (rest : List Request) (s : State) : (s.takeRequest rest).lkp.gapTimer = s.lkp.gapTimer :=
  rfl
@[simp] theorem State.takeRequest_lkp_replies (rest : List Request) (s : State) : (s.takeRequest rest).lkp.replies = s.lkp.replies :=
  rfl
@[simp] theorem State.takeRequest_lkp_cache (rest : List Request) (s : State) : (s.takeRequest rest).lkp.cache = s.lkp.cache :=
  rfl
@[simp] theorem State.takeRequest_lkp_tx (rest : List Request) (s : State) : (s.takeRequest rest).lkp.tx = s.lkp.tx :=
  rfl
@[simp] theorem State.takeRequest_lkp_counters (rest : List Request) (s : State) : (s.takeRequest rest).lkp.counters = s.lkp.counters :=
  rfl
@[simp] theorem State.takeRequest_lkp_resetPending (rest : List Request) (s : State) : (s.takeRequest rest).lkp.resetPending = s.lkp.resetPending :=
  rfl
@[simp] theorem State.takeRequest_lkp_resetCount (rest : List Request) (s : State) : (s.takeRequest rest).lkp.resetCount = s.lkp.resetCount :=
  rfl
@[simp] theorem State.takeRequest_lkp_resetCause (rest : List Request) (s : State) : (s.takeRequest rest).lkp.resetCause = s.lkp.resetCause :=
  rfl

/-! ### State.receive -/

@[simp] theorem State.receive_lkp_straps (e : ByteEvent) (s : State) : (s.receive e).lkp.straps = s.lkp.straps := by
  unfold State.receive; simp
@[simp] theorem State.receive_lkp_cache (e : ByteEvent) (s : State) : (s.receive e).lkp.cache = s.lkp.cache := by
  unfold State.receive; simp
@[simp] theorem State.receive_lkp_resetPending (e : ByteEvent) (s : State) : (s.receive e).lkp.resetPending = s.lkp.resetPending := by
  unfold State.receive; simp
@[simp] theorem State.receive_lkp_resetCount (e : ByteEvent) (s : State) : (s.receive e).lkp.resetCount = s.lkp.resetCount := by
  unfold State.receive; simp
@[simp] theorem State.receive_lkp_resetCause (e : ByteEvent) (s : State) : (s.receive e).lkp.resetCause = s.lkp.resetCause := by
  unfold State.receive; simp

/-! ### State.endStartupIdle -/

@[simp] theorem State.endStartupIdle_lcu_latches (s : State) : (s.endStartupIdle).lcu.latches = s.lcu.latches := by
  unfold State.endStartupIdle; split <;> simp
@[simp] theorem State.endStartupIdle_lcu_tally (s : State) : (s.endStartupIdle).lcu.tally = s.lcu.tally := by
  unfold State.endStartupIdle; split <;> simp
@[simp] theorem State.endStartupIdle_rsc_enable (s : State) : (s.endStartupIdle).rsc.enable = s.rsc.enable := by
  unfold State.endStartupIdle; split <;> simp
@[simp] theorem State.endStartupIdle_rsc_intervalMs (s : State) : (s.endStartupIdle).rsc.intervalMs = s.rsc.intervalMs := by
  unfold State.endStartupIdle; split <;> simp
@[simp] theorem State.endStartupIdle_rsc_timer (s : State) : (s.endStartupIdle).rsc.timer = s.rsc.timer := by
  unfold State.endStartupIdle; split <;> simp
@[simp] theorem State.endStartupIdle_rsc_inFlight (s : State) : (s.endStartupIdle).rsc.inFlight = s.rsc.inFlight := by
  unfold State.endStartupIdle; split <;> simp
@[simp] theorem State.endStartupIdle_lkp_straps (s : State) : (s.endStartupIdle).lkp.straps = s.lkp.straps := by
  unfold State.endStartupIdle; split <;> simp
@[simp] theorem State.endStartupIdle_lkp_rx (s : State) : (s.endStartupIdle).lkp.rx = s.lkp.rx := by
  unfold State.endStartupIdle; split <;> simp
@[simp] theorem State.endStartupIdle_lkp_rxLine (s : State) : (s.endStartupIdle).lkp.rxLine = s.lkp.rxLine := by
  unfold State.endStartupIdle; split <;> simp
@[simp] theorem State.endStartupIdle_lkp_gapTimer (s : State) : (s.endStartupIdle).lkp.gapTimer = s.lkp.gapTimer := by
  unfold State.endStartupIdle; split <;> simp
@[simp] theorem State.endStartupIdle_lkp_inbound (s : State) : (s.endStartupIdle).lkp.inbound = s.lkp.inbound := by
  unfold State.endStartupIdle; split <;> simp
@[simp] theorem State.endStartupIdle_lkp_cache (s : State) : (s.endStartupIdle).lkp.cache = s.lkp.cache := by
  unfold State.endStartupIdle; split <;> simp
@[simp] theorem State.endStartupIdle_lkp_counters (s : State) : (s.endStartupIdle).lkp.counters = s.lkp.counters := by
  unfold State.endStartupIdle; split <;> simp
@[simp] theorem State.endStartupIdle_lkp_resetPending (s : State) : (s.endStartupIdle).lkp.resetPending = s.lkp.resetPending := by
  unfold State.endStartupIdle; split <;> simp
@[simp] theorem State.endStartupIdle_lkp_resetCount (s : State) : (s.endStartupIdle).lkp.resetCount = s.lkp.resetCount := by
  unfold State.endStartupIdle; split <;> simp
@[simp] theorem State.endStartupIdle_lkp_resetCause (s : State) : (s.endStartupIdle).lkp.resetCause = s.lkp.resetCause := by
  unfold State.endStartupIdle; split <;> simp

/-! ### State.setAxis -/

@[simp] theorem State.setAxis_pcu_dir (a : AxisConfig) (s : State) : (s.setAxis a).pcu.dir = s.pcu.dir := rfl
@[simp] theorem State.setAxis_tev_enable (a : AxisConfig) (s : State) : (s.setAxis a).tev.enable = s.tev.enable := rfl
@[simp] theorem State.setAxis_sample_inputs (a : AxisConfig) (s : State) : (s.setAxis a).sample.inputs = s.sample.inputs :=
  rfl
@[simp] theorem State.setAxis_sample_inSample (a : AxisConfig) (s : State) : (s.setAxis a).sample.inSample = s.sample.inSample :=
  rfl

/-! ### State.startSeek -/

@[simp] theorem State.startSeek_rft_configured (src : Source) (p : List Byte) (s : State) : (s.startSeek src p).rft.configured = s.rft.configured :=
  rfl
@[simp] theorem State.startSeek_rft_inForce (src : Source) (p : List Byte) (s : State) : (s.startSeek src p).rft.inForce = s.rft.inForce :=
  rfl
@[simp] theorem State.startSeek_sample_inputs (src : Source) (p : List Byte) (s : State) : (s.startSeek src p).sample.inputs = s.sample.inputs :=
  rfl
@[simp] theorem State.startSeek_sample_inSample (src : Source) (p : List Byte) (s : State) : (s.startSeek src p).sample.inSample = s.sample.inSample :=
  rfl
@[simp] theorem State.startSeek_rsc_enable (src : Source) (p : List Byte) (s : State) : (s.startSeek src p).rsc.enable = s.rsc.enable := by
  unfold State.startSeek; simp
@[simp] theorem State.startSeek_rsc_intervalMs (src : Source) (p : List Byte) (s : State) : (s.startSeek src p).rsc.intervalMs = s.rsc.intervalMs := by
  unfold State.startSeek; simp
@[simp] theorem State.startSeek_rsc_timer (src : Source) (p : List Byte) (s : State) : (s.startSeek src p).rsc.timer = s.rsc.timer := by
  unfold State.startSeek; simp
@[simp] theorem State.startSeek_rsc_hello (src : Source) (p : List Byte) (s : State) : (s.startSeek src p).rsc.hello = s.rsc.hello := by
  unfold State.startSeek; simp
@[simp] theorem State.startSeek_rsc_fault (src : Source) (p : List Byte) (s : State) : (s.startSeek src p).rsc.fault = s.rsc.fault := by
  unfold State.startSeek; simp
@[simp] theorem State.startSeek_rsc_motion (src : Source) (p : List Byte) (s : State) : (s.startSeek src p).rsc.motion = s.rsc.motion := by
  unfold State.startSeek; simp
@[simp] theorem State.startSeek_rsc_position (src : Source) (p : List Byte) (s : State) : (s.startSeek src p).rsc.position = s.rsc.position := by
  unfold State.startSeek; simp
@[simp] theorem State.startSeek_rsc_credit (src : Source) (p : List Byte) (s : State) : (s.startSeek src p).rsc.credit = s.rsc.credit := by
  unfold State.startSeek; simp
@[simp] theorem State.startSeek_rsc_seq (src : Source) (p : List Byte) (s : State) : (s.startSeek src p).rsc.seq = s.rsc.seq := by
  unfold State.startSeek; simp

/-! ### State.editShadow -/

@[simp] theorem State.editShadow_cts_active (t : Fin 8) (tab : TrackTable) (n : Nat) (s : State) : (s.editShadow t tab n).cts.active = s.cts.active :=
  rfl
@[simp] theorem State.editShadow_cts_generation (t : Fin 8) (tab : TrackTable) (n : Nat) (s : State) : (s.editShadow t tab n).cts.generation = s.cts.generation :=
  rfl

/-! ### State.addWindow -/

@[simp] theorem State.addWindow_cts_active (t : Fin 8) (w : Window) (s : State) : (s.addWindow t w).cts.active = s.cts.active :=
  rfl
@[simp] theorem State.addWindow_cts_generation (t : Fin 8) (w : Window) (s : State) : (s.addWindow t w).cts.generation = s.cts.generation :=
  rfl

/-! ### State.removeWindow -/

@[simp] theorem State.removeWindow_cts_active (t : Fin 8) (i : Nat) (s : State) : (s.removeWindow t i).cts.active = s.cts.active :=
  rfl
@[simp] theorem State.removeWindow_cts_generation (t : Fin 8) (i : Nat) (s : State) : (s.removeWindow t i).cts.generation = s.cts.generation :=
  rfl

/-! ### State.clearTrack -/

@[simp] theorem State.clearTrack_cts_active (t : Fin 8) (s : State) : (s.clearTrack t).cts.active = s.cts.active := rfl
@[simp] theorem State.clearTrack_cts_generation (t : Fin 8) (s : State) : (s.clearTrack t).cts.generation = s.cts.generation :=
  rfl

/-! ### State.setParams -/

@[simp] theorem State.setParams_cts_active (t : Fin 8) (l h : Nat) (s : State) : (s.setParams t l h).cts.active = s.cts.active :=
  rfl
@[simp] theorem State.setParams_cts_generation (t : Fin 8) (l h : Nat) (s : State) : (s.setParams t l h).cts.generation = s.cts.generation :=
  rfl

/-! ### State.revertShadow -/

@[simp] theorem State.revertShadow_cts_active (s : State) : (s.revertShadow).cts.active = s.cts.active := rfl
@[simp] theorem State.revertShadow_cts_generation (s : State) : (s.revertShadow).cts.generation = s.cts.generation :=
  rfl

/-! ### State.startCommit -/

@[simp] theorem State.startCommit_rsc_enable (p : CommitPolicy) (s : State) : (s.startCommit p).rsc.enable = s.rsc.enable :=
  rfl
@[simp] theorem State.startCommit_rsc_fresh (p : CommitPolicy) (s : State) : (s.startCommit p).rsc.fresh = s.rsc.fresh :=
  rfl
@[simp] theorem State.startCommit_rsc_intervalMs (p : CommitPolicy) (s : State) : (s.startCommit p).rsc.intervalMs = s.rsc.intervalMs :=
  rfl
@[simp] theorem State.startCommit_rsc_timer (p : CommitPolicy) (s : State) : (s.startCommit p).rsc.timer = s.rsc.timer :=
  rfl
@[simp] theorem State.startCommit_rsc_hello (p : CommitPolicy) (s : State) : (s.startCommit p).rsc.hello = s.rsc.hello :=
  rfl
@[simp] theorem State.startCommit_rsc_sync (p : CommitPolicy) (s : State) : (s.startCommit p).rsc.sync = s.rsc.sync :=
  rfl
@[simp] theorem State.startCommit_rsc_fault (p : CommitPolicy) (s : State) : (s.startCommit p).rsc.fault = s.rsc.fault :=
  rfl
@[simp] theorem State.startCommit_rsc_motion (p : CommitPolicy) (s : State) : (s.startCommit p).rsc.motion = s.rsc.motion :=
  rfl
@[simp] theorem State.startCommit_rsc_position (p : CommitPolicy) (s : State) : (s.startCommit p).rsc.position = s.rsc.position :=
  rfl
@[simp] theorem State.startCommit_rsc_waiting (p : CommitPolicy) (s : State) : (s.startCommit p).rsc.waiting = s.rsc.waiting :=
  rfl
@[simp] theorem State.startCommit_rsc_credit (p : CommitPolicy) (s : State) : (s.startCommit p).rsc.credit = s.rsc.credit :=
  rfl
@[simp] theorem State.startCommit_rsc_seq (p : CommitPolicy) (s : State) : (s.startCommit p).rsc.seq = s.rsc.seq := rfl

/-! ### State.cancelCommit -/

@[simp] theorem State.cancelCommit_bsc_nextTicket (c : Commit) (s : State) : (s.cancelCommit c).bsc.nextTicket = s.bsc.nextTicket :=
  rfl
@[simp] theorem State.cancelCommit_rsc_enable (c : Commit) (s : State) : (s.cancelCommit c).rsc.enable = s.rsc.enable :=
  rfl
@[simp] theorem State.cancelCommit_rsc_fresh (c : Commit) (s : State) : (s.cancelCommit c).rsc.fresh = s.rsc.fresh :=
  rfl
@[simp] theorem State.cancelCommit_rsc_intervalMs (c : Commit) (s : State) : (s.cancelCommit c).rsc.intervalMs = s.rsc.intervalMs :=
  rfl
@[simp] theorem State.cancelCommit_rsc_timer (c : Commit) (s : State) : (s.cancelCommit c).rsc.timer = s.rsc.timer :=
  rfl
@[simp] theorem State.cancelCommit_rsc_hello (c : Commit) (s : State) : (s.cancelCommit c).rsc.hello = s.rsc.hello :=
  rfl
@[simp] theorem State.cancelCommit_rsc_sync (c : Commit) (s : State) : (s.cancelCommit c).rsc.sync = s.rsc.sync := rfl
@[simp] theorem State.cancelCommit_rsc_fault (c : Commit) (s : State) : (s.cancelCommit c).rsc.fault = s.rsc.fault :=
  rfl
@[simp] theorem State.cancelCommit_rsc_motion (c : Commit) (s : State) : (s.cancelCommit c).rsc.motion = s.rsc.motion :=
  rfl
@[simp] theorem State.cancelCommit_rsc_position (c : Commit) (s : State) : (s.cancelCommit c).rsc.position = s.rsc.position :=
  rfl
@[simp] theorem State.cancelCommit_rsc_credit (c : Commit) (s : State) : (s.cancelCommit c).rsc.credit = s.rsc.credit :=
  rfl
@[simp] theorem State.cancelCommit_rsc_seq (c : Commit) (s : State) : (s.cancelCommit c).rsc.seq = s.rsc.seq := rfl

/-! ### State.setMode -/

@[simp] theorem State.setMode_tev_enable (t : Fin 8) (m : TrackMode) (f : SafeLevel) (p : Polarity) (b : Bool) (s : State) : (s.setMode t m f p b).tev.enable = s.tev.enable :=
  rfl

/-! ### State.setLatch -/

@[simp] theorem State.setLatch_lcu_queue (n : Fin 4) (l : Latch) (s : State) : (s.setLatch n l).lcu.queue = s.lcu.queue :=
  rfl
@[simp] theorem State.setLatch_lcu_tally (n : Fin 4) (l : Latch) (s : State) : (s.setLatch n l).lcu.tally = s.lcu.tally :=
  rfl

/-! ### Which latch edge is next -/

/-- The first latch of which a predicate holds is one of which it holds. -/
theorem firstLatch_some {p : Fin 4 → Bool} {n : Fin 4} (h : firstLatch p = some n) : p n = true := by
  unfold firstLatch at h
  repeat' split at h
  all_goals first
    | (rename_i hx; cases h; exact hx)
    | cases h

/-- The next taking of a latch edge is one of the two parts, and due. -/
theorem State.nextLatchEvent_some {s : State} {e : FieldEvent} (h : s.nextLatchEvent = some e) :
    (∃ m, e = .refEdge m ∧ s.refDue m = true) ∨ ∃ n, e = .lcuEdge n ∧ s.edgeDue = some n := by
  unfold State.nextLatchEvent at h
  split at h
  · rename_i m hm
    cases h
    exact .inl ⟨m, rfl, (Option.filter_eq_some_iff.mp hm).2⟩
  · rename_i n _ hn
    cases h
    exact .inr ⟨n, rfl, hn⟩
  · obtain ⟨m, hm, rfl⟩ := Option.map_eq_some_iff.mp h
    exact .inl ⟨m, rfl, firstLatch_some hm⟩

end Sys2Proof.Machine
end

