-- ==== Sys2Proof/Laws/Requests.lean ====
section
/-! SUPPORT. What the execution of a request does, said once: an evaluation made twice is made once, and a request whose
owner makes one effect leaves the state that the statements call `carriedOut`. -/

namespace Sys2Proof.Machine

/-! ## The containers -/

theorem Oct.get_map {α β : Type} (f : α → β) (o : Oct α) (i : Fin 8) : (o.map f).get i = f (o.get i) := by
  fin_cases i <;> rfl

theorem Oct.get_zip {α β γ : Type} (f : α → β → γ) (o : Oct α) (p : Oct β) (i : Fin 8) :
    (Oct.zip f o p).get i = f (o.get i) (p.get i) := by
  fin_cases i <;> rfl

theorem Oct.get_set {α : Type} (o : Oct α) (i j : Fin 8) (x : α) : (o.set i x).get j = if j = i then x else o.get j := by
  fin_cases i <;> fin_cases j <;> rfl

theorem Oct.ext_get {α : Type} {o p : Oct α} (h : ∀ i, o.get i = p.get i) : o = p := by
  cases o; cases p
  have h0 := h 0; have h1 := h 1; have h2 := h 2; have h3 := h 3
  have h4 := h 4; have h5 := h 5; have h6 := h 6; have h7 := h 7
  simp only [Oct.get] at h0 h1 h2 h3 h4 h5 h6 h7
  subst h0 h1 h2 h3 h4 h5 h6 h7
  rfl

theorem Quad.get_set {α : Type} (q : Quad α) (i j : Fin 4) (x : α) :
    (q.set i x).get j = if j = i then x else q.get j := by
  fin_cases i <;> fin_cases j <;> rfl

theorem Quad.get_zip {α β γ : Type} (f : α → β → γ) (q : Quad α) (r : Quad β) (i : Fin 4) :
    (Quad.zip f q r).get i = f (q.get i) (r.get i) := by
  fin_cases i <;> rfl

theorem Quad.get_all {α : Type} (x : α) (i : Fin 4) : (Quad.all x).get i = x := by
  fin_cases i <;> rfl

theorem Oct.get_all {α : Type} (x : α) (i : Fin 8) : (Oct.all x).get i = x := by
  fin_cases i <;> rfl

/-! ## Evaluating twice -/

theorem Track.hysteresis_hysteresis (x : EvalInputs) (tab : TrackTable) (t : Track) :
    (t.hysteresis x tab).hysteresis x tab = t.hysteresis x tab := by
  unfold Track.hysteresis
  by_cases h : rawLevel x tab ≠ t.evaluated ∧ takesEffect x tab t.memory = true
  · simp [h]
  · simp [h]

theorem Track.output_output (x : EvalInputs) (t : Track) : (t.output x).output x = t.output x := by
  cases t
  simp only [Track.output, Track.nextHeld, inhibitCause, trackLevel]
  split_ifs <;> simp_all

theorem Track.evaluate_evaluate (x : EvalInputs) (tab : TrackTable) (t : Track) :
    (t.evaluate x tab).evaluate x tab = t.evaluate x tab := by
  have key : ∀ u : Track, u.hysteresis x tab = u → (u.output x).hysteresis x tab = u.output x := by
    intro u hu
    unfold Track.hysteresis at hu ⊢
    by_cases h : rawLevel x tab ≠ u.evaluated ∧ takesEffect x tab u.memory = true
    · exfalso
      rw [if_pos h] at hu
      have := congrArg Track.evaluated hu
      exact h.1 this
    · rw [if_neg (show ¬(rawLevel x tab ≠ (u.output x).evaluated ∧ takesEffect x tab (u.output x).memory = true) from h)]
  unfold Track.evaluate
  rw [key _ (Track.hysteresis_hysteresis x tab t), Track.output_output]

/-- An evaluation made again at once changes nothing (R83). -/
theorem State.evaluate_evaluate (s : State) : s.evaluate.evaluate = s.evaluate := by
  have h : Oct.zip (fun tab t => Track.evaluate s.evalInputs tab t) s.cts.active.tracks s.evaluate.tev.tracks
      = s.evaluate.tev.tracks := by
    refine Oct.ext_get fun i => ?_
    show (Oct.zip _ _ (Oct.zip _ _ _)).get i = (Oct.zip _ _ _).get i
    rw [Oct.get_zip, Oct.get_zip]
    exact Track.evaluate_evaluate _ _ _
  show ({ s.evaluate with tev := { s.evaluate.tev with tracks := _ } } : State) = s.evaluate
  have e : s.evaluate.evalInputs = s.evalInputs := rfl
  rw [e]
  show ({ s.evaluate with tev := { s.evaluate.tev with
    tracks := Oct.zip (fun tab t => Track.evaluate s.evalInputs tab t) s.cts.active.tracks s.evaluate.tev.tracks } } : State)
    = s.evaluate
  rw [h]

/-! ## Settling -/

/-- Settling a state that has just been evaluated changes at most whether its sample is open. -/
theorem State.settle_evaluated {s u : State} (h : s.tev = u.evaluate.tev) (hp : s.pcu = u.pcu) (ht : s.tsu = u.tsu)
    (hr : s.rft = u.rft) (hc : s.cts = u.cts) :
    ∃ b, s.settle = { s with sample := { s.sample with inSample := b } } ∧ (b = true → s.sample.inSample = true) := by
  unfold State.settle
  split
  · refine ⟨false, ?_, by simp⟩
    have hs : s.evaluate = s := by
      have e : s.evaluate.tev = u.evaluate.evaluate.tev := by
        simp only [State.evaluate, State.evalInputs, h, hp, ht, hr, hc]
      rw [State.evaluate_evaluate, ← h] at e
      show ({ s with tev := s.evaluate.tev } : State) = s
      rw [e]
    unfold State.endSample
    rw [hs]
  · exact ⟨s.sample.inSample, rfl, id⟩

/-- A frame that enters the reply queue changes the queue and TXD only. -/
theorem Lkp.placeReply_kept (r : Reply) (k : Lkp) :
    (k.placeReply r).inbound = k.inbound ∧ (k.placeReply r).cache = k.cache ∧ (k.placeReply r).straps = k.straps
      ∧ (k.placeReply r).rx = k.rx ∧ (k.placeReply r).rxLine = k.rxLine ∧ (k.placeReply r).gapTimer = k.gapTimer
      ∧ (k.placeReply r).resetCount = k.resetCount ∧ (k.placeReply r).resetCause = k.resetCause
      ∧ (k.placeReply r).counters = k.counters ∧ (k.placeReply r).resetPending = k.resetPending := by
  unfold Lkp.placeReply Lkp.startReply
  split <;> exact ⟨rfl, rfl, rfl, rfl, rfl, rfl, rfl, rfl, rfl, rfl⟩

/-- On a busy line the frame becomes the newest of the reply queue (R178). -/
theorem Lkp.placeReply_busy (r : Reply) (k : Lkp) (h : k.tx ≠ .free) :
    (k.placeReply r).tx = k.tx ∧ (k.placeReply r).replies = k.replies ++ [r] := by
  unfold Lkp.placeReply Lkp.startReply
  split
  · rename_i h1 _
    exact absurd h1 h
  · exact ⟨rfl, rfl⟩

/-- On a free line with no reply waiting its transmission begins (R179). -/
theorem Lkp.placeReply_free (r : Reply) (k : Lkp) (h : k.tx = .free) (hq : k.replies = []) :
    (k.placeReply r).replies = [] ∧ (k.placeReply r).tx = .sending r := by
  unfold Lkp.placeReply Lkp.startReply
  simp [h, hq]

/-- The state in which the reply to a request has been placed. -/
theorem State.reply_answeredWith {s u : State} {r : Request} {rest : List Request} {a : Answer}
    (hl : u.lkp = { s.lkp with inbound := rest, resetPending := u.lkp.resetPending, counters := u.lkp.counters }) :
    answeredWith s (State.reply r a u) r rest (replyFrame r a) u.lkp.resetPending ∧ linkKept s (State.reply r a u)
      ∧ (State.reply r a u).lkp.counters = u.lkp.counters
      ∧ (State.reply r a u).lkp.resetPending = u.lkp.resetPending := by
  have hin : u.lkp.inbound = rest := by rw [hl]
  have hca : u.lkp.cache = s.lkp.cache := by rw [hl]
  have htx : u.lkp.tx = s.lkp.tx := by rw [hl]
  have hre : u.lkp.replies = s.lkp.replies := by rw [hl]
  have h1 : u.lkp.straps = s.lkp.straps := by rw [hl]
  have h2 : u.lkp.rx = s.lkp.rx := by rw [hl]
  have h3 : u.lkp.rxLine = s.lkp.rxLine := by rw [hl]
  have h4 : u.lkp.gapTimer = s.lkp.gapTimer := by rw [hl]
  have h5 : u.lkp.resetCount = s.lkp.resetCount := by rw [hl]
  have h6 : u.lkp.resetCause = s.lkp.resetCause := by rw [hl]
  let k : Lkp := { u.lkp with
    cache := cacheAdd { seq := r.seq, crc := r.crc, frame := replyFrame r a } u.lkp.cache }
  let f : Reply := { frame := replyFrame r a, resetOk := u.lkp.resetPending }
  have e : (State.reply r a u).lkp = k.placeReply f := rfl
  obtain ⟨a0, a1, a2, a3, a4, a5, a6, a7, a8, a9⟩ := k.placeReply_kept f
  refine ⟨⟨?_, ?_, fun hb => ?_, fun hf hq => ?_⟩, ⟨?_, ?_, ?_, ?_, ?_, ?_⟩, ?_, ?_⟩ <;> rw [e]
  · exact a0.trans hin
  · rw [a1]
    show cacheAdd _ u.lkp.cache = _
    rw [hca]
    rfl
  · obtain ⟨b0, b1⟩ := k.placeReply_busy f (by show u.lkp.tx ≠ .free; rw [htx]; exact hb)
    exact ⟨b0.trans htx, b1.trans (by show u.lkp.replies ++ _ = _; rw [hre])⟩
  · exact k.placeReply_free f (htx.trans hf) (hre.trans hq)
  · exact a2.trans h1
  · exact a3.trans h2
  · exact a4.trans h3
  · exact a5.trans h4
  · exact a6.trans h5
  · exact a7.trans h6
  · exact a8
  · exact a9

/-- Where no event is left that changes the speed or the angle after one that changed the other, nothing is taken. -/
theorem State.pairSpeed_eq {s : State} (h : s.sample.moved = true → s.speedDue = false) : s.pairSpeed = s := by
  unfold State.pairSpeed State.catchUp
  split
  · rename_i hm
    rw [h hm]
    rfl
  · rfl

/-- The outcome of the execution of the oldest request, whose owner leaves `u` and answers `a`. -/
theorem State.execute_offers {accepts : Request → Bool} {act : Request → State → State × Answer}
    {s u : State} {kind : Byte} {r : Request} {rest : List Request} {a : Answer} (ho : s.offers kind r rest)
    (ha : accepts r = true) (hact : act r (s.takeRequest rest) = (u, a)) :
    live (State.execute accepts act) s = .next (State.reply r a u).settle := by
  obtain ⟨hn, hi, hq, hp, hm, -⟩ := ho
  have hx : s.lkp.executes = true := by simp [Lkp.executes, hq, hp]
  unfold live State.execute
  rw [hi, State.pairSpeed_eq hm]
  simp [hn, hx, ha, hact]

/-- The execution of the oldest request, whose owner makes the effect `u` and answers `a`. -/
theorem State.execute_carriedOut {accepts : Request → Bool} {act : Request → State → State × Answer}
    {s u : State} {kind : Byte} {r : Request} {rest : List Request} {a : Answer} (ho : s.offers kind r rest)
    (ha : accepts r = true) (hact : act r (s.takeRequest rest) = (u.evaluate, a))
    (hl : u.lkp = (s.takeRequest rest).lkp) :
    ∃ t, live (State.execute accepts act) s = .next t ∧ carriedOut s u t r rest a.status.code a.body := by
  refine ⟨_, State.execute_offers ho ha hact, ?_⟩
  obtain ⟨b, hb, hb'⟩ := State.settle_evaluated (s := State.reply r a u.evaluate) (u := u) rfl rfl rfl rfl rfl
  rw [hb]
  have hl' : u.evaluate.lkp = { s.lkp with inbound := rest } := hl
  have hp : u.evaluate.lkp.resetPending = false := by rw [hl']; exact ho.2.2.2.1
  have hc : u.evaluate.lkp.counters = s.lkp.counters := by rw [hl']
  obtain ⟨h1, h2, h3, h4⟩ := State.reply_answeredWith (s := s) (u := u.evaluate) (r := r) (rest := rest) (a := a)
    (by rw [hl'])
  have hkind : replyKind r.kind = r.kind + 0x80 := by simp [replyKind, ho.2.2.2.2.2.1, ho.2.2.2.2.2.2]
  rw [hp, replyFrame, hkind] at h1
  exact ⟨h1, h2, h3.trans hc, h4.trans hp, rfl, rfl, rfl, rfl, rfl, rfl, rfl, rfl, rfl, rfl, rfl, rfl, rfl, rfl,
      rfl, rfl, rfl, rfl, rfl, hb'⟩

/-- The execution of a request of one kind. -/
theorem State.executeKind_carriedOut {owner : Owner} {s u : State} {kind : Byte} {r : Request} {rest : List Request}
    {a : Answer} (ho : s.offers kind r rest) (hown : owner (s.takeRequest rest) r.payload = (u.evaluate, a))
    (hl : u.lkp = (s.takeRequest rest).lkp) :
    ∃ t, live (State.executeKind kind owner) s = .next t ∧ carriedOut s u t r rest a.status.code a.body := by
  have hk := ho.2.2.2.2.2.1
  have hlen := ho.2.2.2.2.2.2
  refine State.execute_carriedOut ho (by simp [hk]) ?_ hl
  unfold checkLength
  rw [hk, if_pos hlen]
  exact hown

/-- `carriedOut` looks at the effect's blocks, and at no other part of `u`. -/
theorem carriedOut.congr {s u v t : State} {r : Request} {rest : List Request} {status : Byte} {fields : List Byte}
    (h : carriedOut s u t r rest status fields) (h0 : v.qdu = u.qdu) (h1 : v.pcu = u.pcu) (h2 : v.rft = u.rft)
    (h3 : v.tsu = u.tsu) (h4 : v.cts = u.cts) (h5 : v.bsc = u.bsc) (h6 : v.tev = u.tev) (h7 : v.lcu = u.lcu)
    (h8 : v.rsc = u.rsc) (h9 : v.nrstLow = u.nrstLow) (h10 : v.pending = u.pending) (h11 : sampleKept v u) :
    carriedOut s v t r rest status fields := by
  obtain ⟨a, b, c, d, e0, e1, e2, e3, e4, e5, e6, e7, e8, e9, e10, e11⟩ := h
  obtain ⟨f0, f1, f2, f3, f4, f5, f6, f7, f8⟩ := e11
  obtain ⟨g0, g1, g2, g3, g4, g5, g6, g7, g8⟩ := h11
  have ev : v.evaluate.tev = u.evaluate.tev := by simp only [State.evaluate, State.evalInputs, h1, h2, h3, h4, h6]
  exact ⟨a, b, c, d, e0.trans h0.symm, e1.trans h1.symm, e2.trans h2.symm, e3.trans h3.symm, e4.trans h4.symm,
    e5.trans h5.symm, e6.trans ev.symm, e7.trans h7.symm, e8.trans h8.symm, e9.trans h9.symm, e10.trans h10.symm,
    f0.trans g0, f1.trans g1, f2.trans g2, f3.trans g3, f4.trans g4, f5.trans g5, f6.trans g6,
    f7.trans g7, fun h => g8 (f8 h)⟩

/-- A refused request, whatever its effect would have been. -/
theorem carriedOut.ofTaken {s t : State} {r : Request} {rest : List Request} {status : Byte} {fields : List Byte}
    (h : carriedOut s (s.takeRequest rest) t r rest status fields) : carriedOut s s t r rest status fields :=
  h.congr rfl rfl rfl rfl rfl rfl rfl rfl rfl rfl rfl ⟨rfl, rfl, rfl, rfl, rfl, rfl, rfl, rfl, id⟩

/-- The execution of a request of one kind, with what follows from what its owner does. -/
theorem State.executeKind_run {s : State} {kind : Byte} {r : Request} {rest : List Request} (owner : Owner)
    (ho : s.offers kind r rest) :
    ∃ t, live (State.executeKind kind owner) s = .next t
      ∧ (∀ st, owner (s.takeRequest rest) r.payload = refuse st (s.takeRequest rest) → refused s t r rest st.code)
      ∧ ∀ u a, owner (s.takeRequest rest) r.payload = (u.evaluate, a) → u.lkp = (s.takeRequest rest).lkp →
        carriedOut s u t r rest a.status.code a.body := by
  have hx : live (State.executeKind kind owner) s
      = .next (State.reply r (owner (s.takeRequest rest) r.payload).2 (owner (s.takeRequest rest) r.payload).1).settle := by
    refine State.execute_offers (kind := kind) (rest := rest) ho (by simp [ho.2.2.2.2.2.1]) ?_
    unfold checkLength
    rw [ho.2.2.2.2.2.1, if_pos ho.2.2.2.2.2.2]
  have key : ∀ u a, owner (s.takeRequest rest) r.payload = (u.evaluate, a) → u.lkp = (s.takeRequest rest).lkp →
      carriedOut s u (State.reply r (owner (s.takeRequest rest) r.payload).2
        (owner (s.takeRequest rest) r.payload).1).settle r rest a.status.code a.body := by
    intro u a hown hl
    obtain ⟨t, h1, h2⟩ := State.executeKind_carriedOut ho hown hl
    rw [hx] at h1
    cases h1
    exact h2
  refine ⟨_, hx, fun st h => ?_, key⟩
  exact (key (s.takeRequest rest) ⟨st, []⟩ h rfl).ofTaken

end Sys2Proof.Machine
end

