-- ==== Sys2Proof/Laws/Drain.lean ====
section
/-! SUPPORT. The events of a sample come to an end: each event taken lowers a count of what is left, so `State.drain`
leaves nothing due. -/

namespace Sys2Proof.Machine

/-! ## What the field events leave of the sample -/

/-- What the sample has found, apart from the order kept among its hand-overs. -/
def Sample.found (x : Sample) :
    Bool × Option PairEvent × Option Bool × Quad (Option EdgeKind) × Quad (Option EdgeKind) :=
  (x.inSample, x.ab, x.z, x.edges, x.refEdges)

@[simp] theorem State.noteView_found (s : State) : s.noteView.sample.found = s.sample.found := rfl

@[simp] theorem State.noteMove_found (s : State) : s.noteMove.sample.found = s.sample.found := rfl

theorem State.endSwapped_found (c : Commit) (p : AbsPos) (s : State) :
    (s.endSwapped c p).sample.found = s.sample.found := rfl

theorem State.bscArrive_found (p : AbsPos) (s : State) : (s.bscArrive p).sample.found = s.sample.found := by
  unfold State.bscArrive
  repeat' split
  all_goals rfl

theorem State.bscIndex_found (s : State) : s.bscIndex.sample.found = s.sample.found := by
  unfold State.bscIndex
  repeat' split
  all_goals rfl

theorem State.bscArriveKept_found (p : Option AbsPos) (s : State) :
    (s.bscArriveKept p).sample.found = s.sample.found := by
  unfold State.bscArriveKept
  split
  · exact State.bscArrive_found _ _
  · rfl

theorem State.bscLeft_found (s : State) : s.bscLeft.sample.found = s.sample.found := rfl

theorem State.rftStep_found (s : State) : s.rftStep.sample.found = s.sample.found := by
  unfold State.rftStep State.indexError
  dsimp only
  repeat' split
  all_goals rfl

theorem State.rftQuad_found (s : State) : s.rftQuad.sample.found = s.sample.found := by
  unfold State.rftQuad
  repeat' split
  all_goals rfl

theorem State.rftIndex_found (s : State) : s.rftIndex.sample.found = s.sample.found := by
  unfold State.rftIndex State.indexLocked State.indexError
  dsimp only
  repeat' split
  all_goals rfl

theorem State.takeRefEdge_found (n : Fin 4) (s : State) :
    (s.takeRefEdge n).sample.found
      = (s.sample.inSample, s.sample.ab, s.sample.z, s.sample.edges, s.sample.refEdges.set n none) := by
  unfold State.takeRefEdge
  dsimp only
  repeat' split
  all_goals rfl

theorem State.takeStep_found (d : Dir) (turn : ArrivalTurn) (s : State) :
    (s.takeStep d turn).sample.found = (s.sample.inSample, none, s.sample.z, s.sample.edges, s.sample.refEdges) := by
  unfold State.takeStep State.handStep
  cases turn <;> dsimp only
  · rw [State.bscLeft_found, State.rftStep_found, State.bscArrive_found]; rfl
  · rw [State.bscLeft_found, State.bscArrive_found, State.rftStep_found]; rfl
  · rw [State.bscArrive_found, State.bscLeft_found, State.rftStep_found]; rfl
  · split
    · show (State.bscLeft _).sample.found = _
      rw [State.bscLeft_found, State.rftStep_found]; rfl
    · rw [State.bscArrive_found, State.bscLeft_found, State.rftStep_found]; rfl

theorem State.quadWithIndex_found (s : State) :
    s.quadWithIndex.sample.found =
      (s.sample.inSample, s.sample.ab, if s.indexFormed then none else s.sample.z, s.sample.edges, s.sample.refEdges) := by
  have e := State.rftQuad_found s
  simp only [Sample.found, Prod.mk.injEq] at e
  obtain ⟨e1, e2, e3, e4, e5⟩ := e
  unfold State.quadWithIndex
  split
  · rw [State.bscIndex_found]
    simp only [Sample.found, e1, e2, e4, e5]
  · simp only [Sample.found, e1, e2, e3, e4, e5]

theorem State.takeQuadError_found (turn : LossTurn) (s : State) :
    ∃ z, (s.takeQuadError turn).sample.found = (s.sample.inSample, none, z, s.sample.edges, s.sample.refEdges)
      ∧ (z = none ∨ z = s.sample.z) := by
  unfold State.takeQuadError
  cases turn <;> dsimp only
  · rw [State.bscLeft_found, State.quadWithIndex_found]
    split
    · exact ⟨none, rfl, .inl rfl⟩
    · exact ⟨_, rfl, .inr rfl⟩
  · rw [State.bscLeft_found, State.rftQuad_found]
    exact ⟨_, rfl, .inr rfl⟩

theorem State.takeIndexEvent_found (turn : LossTurn) (s : State) :
    (s.takeIndexEvent turn).sample.found
      = (s.sample.inSample, s.sample.ab, none, s.sample.edges, s.sample.refEdges) := by
  unfold State.takeIndexEvent
  cases turn <;> dsimp only
  · rw [State.bscLeft_found, State.bscArriveKept_found, State.bscIndex_found, State.rftIndex_found]; rfl
  · rw [State.bscArriveKept_found, State.bscIndex_found, State.bscLeft_found, State.rftIndex_found]; rfl

theorem State.takeLcuEdge_found (n : Fin 4) (back : Nat) (s : State) (h : (s.sample.edges.get n).isSome) :
    (s.takeLcuEdge n back).sample.found
      = (s.sample.inSample, s.sample.ab, s.sample.z, s.sample.edges.set n none, s.sample.refEdges) := by
  unfold State.takeLcuEdge
  obtain ⟨k, hk⟩ := Option.isSome_iff_exists.mp h
  rw [hk]
  rfl

/-! ## The count of what is left -/

/-- The latch edges that the LCU, or the RFT, has not taken. -/
def edgesLeft (q : Quad (Option EdgeKind)) : Nat :=
  q.l0.isSome.toNat + q.l1.isSome.toNat + q.l2.isSome.toNat + q.l3.isSome.toNat

/-- What one latch has left of the sample besides its edge. -/
def Latch.left (now : Word32) (l : Latch) : Nat :=
  (decide (l.settling = some 0)).toNat + (l.holdoffOver now).toNat

/-- What the four latches have left of the sample besides their edges. -/
def Lcu.left (now : Word32) (c : Lcu) : Nat :=
  c.latches.l0.left now + c.latches.l1.left now + c.latches.l2.left now + c.latches.l3.left now

/-- What the TSU has left of the sample besides a step. -/
def Tsu.left (t : Tsu) : Nat := t.stallExpired.toNat + (decide (t.decayed ≠ t.presented)).toNat

/-- What a sample has left to take; a change of the pair counts twice, since a step may be followed by a stall. -/
def State.work (s : State) : Nat :=
  (decide (s.qdu.settling = some 0)).toNat + s.lcu.left s.tsu.timebase + 2 * s.sample.ab.isSome.toNat
    + s.sample.z.isSome.toNat + edgesLeft s.sample.edges + edgesLeft s.sample.refEdges + s.tsu.left
    + s.timerExpired.toNat

theorem State.work_le (s : State) : s.work ≤ 23 := by
  have b : ∀ x : Bool, x.toNat ≤ 1 := Bool.toNat_le
  have l : ∀ x : Latch, x.left s.tsu.timebase ≤ 2 := fun x => Nat.add_le_add (b _) (b _)
  have h1 : s.lcu.left s.tsu.timebase ≤ 8 := by
    unfold Lcu.left
    have := l s.lcu.latches.l0; have := l s.lcu.latches.l1; have := l s.lcu.latches.l2; have := l s.lcu.latches.l3
    omega
  have h2 : ∀ q : Quad (Option EdgeKind), edgesLeft q ≤ 4 := by
    intro q
    unfold edgesLeft
    have := b q.l0.isSome; have := b q.l1.isSome; have := b q.l2.isSome; have := b q.l3.isSome
    omega
  have := h2 s.sample.edges; have := h2 s.sample.refEdges
  have h3 : s.tsu.left ≤ 2 := Nat.add_le_add (b _) (b _)
  have := b (decide (s.qdu.settling = some 0)); have := b s.sample.ab.isSome
  have := b s.sample.z.isSome; have := b s.timerExpired
  unfold State.work
  omega

theorem edgesLeft_set {q : Quad (Option EdgeKind)} {n : Fin 4} (h : (q.get n).isSome) :
    edgesLeft (q.set n none) + 1 = edgesLeft q := by
  unfold edgesLeft
  fin_cases n <;> simp [Quad.get, Quad.set] at h ⊢ <;> simp [h] <;> omega

theorem Lcu.left_set (now : Word32) (c : Lcu) (n : Fin 4) (l : Latch) {d : Lcu} (hd : d.latches = c.latches.set n l) :
    d.left now + (c.latches.get n).left now = c.left now + l.left now := by
  unfold Lcu.left
  rw [hd]
  fin_cases n <;> simp [Quad.get, Quad.set] <;> omega

/-- An edge that the LCU takes leaves no latch with more to do. -/
theorem Lcu.takeEdge_left (n : Fin 4) (k : EdgeKind) (now : Word32) (v : View) (c : Lcu) :
    (c.takeEdge n k now v).left now ≤ c.left now := by
  have acc : ∀ l : Latch, (l.accept now).holdoffOver now = false := by
    intro l
    unfold Latch.holdoffOver Latch.holdoffRunning Latch.accept elapsed
    by_cases h : l.holdoffUs = 0
    · simp [h]
    · simp [h]
      omega
  have le : ∀ l : Latch, (l.accept now).left now ≤ l.left now := by
    intro l
    unfold Latch.left
    rw [acc]
    rw [Latch.accept_settling]
    exact Nat.add_le_add_left (Nat.zero_le _) _
  have key : ∀ l : Latch, l.left now ≤ (c.latches.get n).left now →
      Lcu.left now { c with latches := c.latches.set n l } ≤ c.left now := by
    intro l h
    have := Lcu.left_set now c n l (d := { c with latches := c.latches.set n l }) rfl
    omega
  unfold Lcu.takeEdge
  dsimp only
  split
  · exact Nat.le_refl _
  · exact key _ (Nat.le_refl _)
  · split
    · exact key _ (le _)
    · exact key _ (le (c.latches.get n))

/-- A presented speed formed from the count estimate of a step is not lowered at once. -/
theorem Tsu.present_decayed (u : Tsu) (h0 : u.sinceStep = 0) :
    (Tsu.present u.countEstimate { u with estimate := u.countEstimate }).decayed
      = (Tsu.present u.countEstimate { u with estimate := u.countEstimate }).presented := by
  have key : ∀ w : Tsu, w.sinceStep = 0 → w.estimate = w.countEstimate → w.presented = w.countEstimate →
      w.decayed = w.presented := by
    intro w h0 h1 h2
    have hd : w.decaying = false := by unfold Tsu.decaying; simp [h0]
    unfold Tsu.decayed
    rw [hd, h2, h1]
    unfold Tsu.countEstimate
    cases hh : w.history with
    | nil => simp
    | cons a l => dsimp only; split <;> simp
  unfold Tsu.present
  split
  · rename_i h
    exact key _ h0 rfl h.symm
  · exact key _ h0 rfl rfl

/-- A step leaves no decay to be made. -/
theorem Tsu.step_decayed (d : Dir) (t : Tsu) : (t.step d).decayed = (t.step d).presented := by
  unfold Tsu.step
  exact Tsu.present_decayed _ (by simp [Tsu.sinceStep, elapsed])

/-- Decaying twice is decaying once. -/
theorem Tsu.present_idem (t : Tsu) : (t.present t.decayed).decayed = (t.present t.decayed).presented := by
  unfold Tsu.present
  split
  · rename_i h
    exact h
  · rfl

/-- A decay leaves the stall time as it is. -/
theorem Tsu.present_stallExpired (v : Int) (t : Tsu) : (t.present v).stallExpired = t.stallExpired := by
  unfold Tsu.present
  split <;> rfl

/-- A stall leaves nothing for the TSU. -/
theorem Tsu.stall_left (t : Tsu) : t.stall.left = 0 := by
  unfold Tsu.stall Tsu.present Tsu.left
  split
  · rename_i h
    simp [Tsu.stallExpired, Tsu.decayed, Tsu.used]
    exact h
  · simp [Tsu.stallExpired, Tsu.decayed, Tsu.used, Tsu.testOverspeed]

/-! ## Each event lowers the count -/

theorem State.work_of {s t : State} (hq : t.qdu.settling = s.qdu.settling) (hl : t.lcu = s.lcu) (ht : t.tsu = s.tsu)
    (hr : t.timerExpired = s.timerExpired) (hf : t.sample.found = s.sample.found) : t.work = s.work := by
  simp only [Sample.found, Prod.mk.injEq] at hf
  obtain ⟨-, e2, e3, e4, e5⟩ := hf
  unfold State.work
  rw [hq, hl, ht, hr, e2, e3, e4, e5]

theorem State.timerExpired_of {s t : State} (h1 : t.rsc.timer = s.rsc.timer) (h2 : t.rsc.enable = s.rsc.enable)
    (h3 : t.rsc.intervalMs = s.rsc.intervalMs) (h4 : t.tsu.timebase = s.tsu.timebase)
    (h5 : t.sample.inSample = s.sample.inSample) : t.timerExpired = s.timerExpired := by
  unfold State.timerExpired
  rw [h1, h2, h3, h4, h5]

theorem State.takeStep_work (d : Dir) (turn : ArrivalTurn) (s : State) (h : s.stepDue = some d) :
    (s.takeStep d turn).work < s.work := by
  have hab : s.sample.ab.isSome = true := by
    unfold State.stepDue at h
    cases hx : s.sample.ab with
    | none => rw [hx] at h; cases h
    | some c => rfl
  have hf := State.takeStep_found d turn s
  simp only [Sample.found, Prod.mk.injEq] at hf
  obtain ⟨e1, e2, e3, e4, e5⟩ := hf
  have htb : (s.takeStep d turn).tsu.timebase = s.tsu.timebase := by simp
  have hr : (s.takeStep d turn).timerExpired = s.timerExpired :=
    State.timerExpired_of (by simp) (by simp) (by simp) htb (by simp)
  have hl : (s.takeStep d turn).tsu.left ≤ s.tsu.left + 1 := by
    have ht : (s.takeStep d turn).tsu = (s.applyStep d).tsu := by simp [State.takeStep]
    rw [ht, State.applyStep_tsu]
    split
    · exact Nat.le_succ _
    · refine Nat.le_trans ?_ (Nat.le_add_left 1 _)
      unfold Tsu.left
      rw [Tsu.step_decayed]
      simpa using Bool.toNat_le _
  unfold State.work
  rw [e2, e3, e4, e5, htb, hr, hab, State.takeStep_qdu, State.takeStep_lcu]
  simp only [Option.isSome_none, Bool.toNat_false, Bool.toNat_true]
  omega

theorem State.takeQuadError_work (turn : LossTurn) (s : State) (h : s.quadDue = true) :
    (s.takeQuadError turn).work < s.work := by
  have hab : s.sample.ab.isSome = true := by
    unfold State.quadDue at h
    simp only [Bool.and_eq_true, decide_eq_true_eq] at h
    rw [h.2]
    rfl
  obtain ⟨z, hf, hz⟩ := State.takeQuadError_found turn s
  simp only [Sample.found, Prod.mk.injEq] at hf
  obtain ⟨e1, e2, e3, e4, e5⟩ := hf
  have hle : z.isSome.toNat ≤ s.sample.z.isSome.toNat := by
    rcases hz with h | h <;> rw [h]
    exact Nat.zero_le _
  have hr : (s.takeQuadError turn).timerExpired = s.timerExpired :=
    State.timerExpired_of (by simp) (by simp) (by simp) (by simp) (by simp)
  have hq : (s.takeQuadError turn).qdu.settling = s.qdu.settling := by simp
  unfold State.work
  rw [e2, e3, e4, e5, hr, hab, hq, State.takeQuadError_tsu, State.takeQuadError_lcu]
  simp only [Option.isSome_none, Bool.toNat_false, Bool.toNat_true]
  omega

theorem State.takeIndexEvent_work (turn : LossTurn) (s : State) (h : s.indexDue = true) :
    (s.takeIndexEvent turn).work < s.work := by
  have hz : s.sample.z.isSome = true := by
    unfold State.indexDue State.indexFormed at h
    cases hx : s.sample.z with
    | none => rw [hx] at h; simp at h
    | some c => rfl
  have hf := State.takeIndexEvent_found turn s
  simp only [Sample.found, Prod.mk.injEq] at hf
  obtain ⟨e1, e2, e3, e4, e5⟩ := hf
  have hr : (s.takeIndexEvent turn).timerExpired = s.timerExpired :=
    State.timerExpired_of (by simp) (by simp) (by simp) (by simp) (by simp)
  unfold State.work
  rw [e2, e3, e4, e5, hr, hz, State.takeIndexEvent_tsu, State.takeIndexEvent_lcu, State.takeIndexEvent_qdu]
  simp only [Option.isSome_none, Bool.toNat_false, Bool.toNat_true]
  omega

theorem State.takeRefEdge_work (n : Fin 4) (s : State) (h : s.refDue n = true) : (s.takeRefEdge n).work < s.work := by
  have he : (s.sample.refEdges.get n).isSome = true := by
    unfold State.refDue at h
    exact (Bool.and_eq_true _ _ ▸ h : _ ∧ _).2
  have hf := State.takeRefEdge_found n s
  simp only [Sample.found, Prod.mk.injEq] at hf
  obtain ⟨e1, e2, e3, e4, e5⟩ := hf
  have hr : (s.takeRefEdge n).timerExpired = s.timerExpired :=
    State.timerExpired_of (by simp) (by simp) (by simp) (by simp) (by simp)
  have hx := edgesLeft_set he
  unfold State.work
  rw [e2, e3, e4, e5, hr, State.takeRefEdge_tsu, State.takeRefEdge_qdu, State.takeRefEdge_lcu]
  omega

theorem State.takeLcuEdge_work (n : Fin 4) (back : Nat) (s : State) (h : s.edgeDue = some n) :
    (s.takeLcuEdge n back).work < s.work := by
  have he : (s.sample.edges.get n).isSome = true := by
    unfold State.edgeDue State.lowestEdge at h
    split at h
    · repeat' split at h
      all_goals first
        | (rename_i hx; cases h; exact hx)
        | cases h
    · cases h
  have hf := State.takeLcuEdge_found n back s he
  simp only [Sample.found, Prod.mk.injEq] at hf
  obtain ⟨e1, e2, e3, e4, e5⟩ := hf
  have hr : (s.takeLcuEdge n back).timerExpired = s.timerExpired :=
    State.timerExpired_of (by simp) (by simp) (by simp) (by simp) (by simp)
  have hl : (s.takeLcuEdge n back).lcu.left s.tsu.timebase ≤ s.lcu.left s.tsu.timebase := by
    unfold State.takeLcuEdge
    split
    · exact Lcu.takeEdge_left _ _ _ _ _
    · exact Nat.le_refl _
  have hx := edgesLeft_set he
  unfold State.work
  rw [e2, e3, e4, e5, hr, State.takeLcuEdge_tsu, State.takeLcuEdge_qdu]
  omega

theorem State.noteMove_work (s : State) : s.noteMove.work = s.work := rfl

theorem State.stall_work (s : State) (h : s.stallDue = true) : s.enterStall.noteMove.work < s.work := by
  rw [State.noteMove_work]
  have hx : s.tsu.stallExpired = true := by
    unfold State.stallDue at h
    simpa using (Bool.and_eq_true _ _ ▸ h : _ ∧ _).2
  have htb : s.tsu.stall.timebase = s.tsu.timebase := by simp
  have hr : s.enterStall.timerExpired = s.timerExpired :=
    State.timerExpired_of (by simp) (by simp) (by simp) (by simp) rfl
  have h0 := Tsu.stall_left s.tsu
  have h1 : 1 ≤ s.tsu.left := by
    unfold Tsu.left
    rw [hx]
    simp
  unfold State.work
  rw [hr, State.enterStall_tsu, htb, h0, State.enterStall_qdu, State.enterStall_lcu, State.enterStall_sample]
  omega

theorem State.decay_work (s : State) (h : s.decayDue = true) : s.decay.noteMove.work < s.work := by
  rw [State.noteMove_work]
  have hx : s.tsu.decayed ≠ s.tsu.presented := by
    unfold State.decayDue at h
    simp only [Bool.and_eq_true, decide_eq_true_eq] at h
    exact h.2
  have htb : (s.tsu.present s.tsu.decayed).timebase = s.tsu.timebase := by simp
  have hr : s.decay.timerExpired = s.timerExpired :=
    State.timerExpired_of (by simp) (by simp) (by simp) (by simp) rfl
  have h0 : (s.tsu.present s.tsu.decayed).left < s.tsu.left := by
    unfold Tsu.left
    rw [Tsu.present_idem, Tsu.present_stallExpired]
    simp [hx]
  unfold State.work
  rw [hr, State.decay_tsu, htb, State.decay_qdu, State.decay_lcu, State.decay_sample]
  omega

theorem State.takeTimer_work (back : Nat) (s : State) (h : s.timerDue = true) : (s.takeTimer back).work < s.work := by
  have hx : s.timerExpired = true := by
    unfold State.timerDue at h
    simp only [Bool.and_eq_true] at h
    exact h.1.1.1
  have hr : (s.takeTimer back).timerExpired = false := by
    unfold State.timerExpired State.takeTimer
    simp [elapsed]
  unfold State.work
  rw [hr, hx, State.takeTimer_tsu, State.takeTimer_qdu, State.takeTimer_lcu, State.takeTimer_sample]
  simp

theorem State.takeSettlingEnd_work (s : State) (h : s.settlingDue = true) : s.takeSettlingEnd.work < s.work := by
  have hx : s.qdu.settling = some 0 := by
    unfold State.settlingDue at h
    simp only [Bool.and_eq_true, decide_eq_true_eq] at h
    exact h.2
  have hr : s.takeSettlingEnd.timerExpired = s.timerExpired := rfl
  have hq : s.takeSettlingEnd.qdu.settling = none := rfl
  unfold State.work
  rw [hr, hq, hx]
  simp [State.takeSettlingEnd]

theorem State.takeLatchSettlingEnd_work (n : Fin 4) (s : State) (h : s.latchSettlingDue n = true) :
    (s.takeLatchSettlingEnd n).work < s.work := by
  have hx : (s.lcu.latches.get n).settling = some 0 := by
    unfold State.latchSettlingDue at h
    simp only [Bool.and_eq_true, decide_eq_true_eq] at h
    exact h.2
  obtain ⟨l, hdef⟩ : ∃ l : Latch, l = { s.lcu.latches.get n with settling := none } := ⟨_, rfl⟩
  have h1 : l.left s.tsu.timebase < (s.lcu.latches.get n).left s.tsu.timebase := by
    rw [hdef]
    unfold Latch.left
    rw [hx]
    simp [Latch.holdoffOver, Latch.holdoffRunning]
  have hl := Lcu.left_set s.tsu.timebase s.lcu n l (d := (State.takeLatchSettlingEnd n s).lcu) (by rw [hdef]; rfl)
  have hw : (State.takeLatchSettlingEnd n s).work = (decide (s.qdu.settling = some 0)).toNat
      + (State.takeLatchSettlingEnd n s).lcu.left s.tsu.timebase
      + 2 * s.sample.ab.isSome.toNat + s.sample.z.isSome.toNat + edgesLeft s.sample.edges
      + edgesLeft s.sample.refEdges + s.tsu.left + s.timerExpired.toNat := rfl
  rw [hw]
  unfold State.work
  omega

theorem State.takeHoldoffEnd_work (n : Fin 4) (s : State) (h : s.holdoffDue n = true) :
    (s.takeHoldoffEnd n).work < s.work := by
  have hx : (s.lcu.latches.get n).holdoffOver s.tsu.timebase = true := by
    unfold State.holdoffDue at h
    exact (Bool.and_eq_true _ _ ▸ h : _ ∧ _).2
  obtain ⟨l, hdef⟩ : ∃ l : Latch, l = { s.lcu.latches.get n with holdoff := none } := ⟨_, rfl⟩
  have h1 : l.left s.tsu.timebase < (s.lcu.latches.get n).left s.tsu.timebase := by
    rw [hdef]
    unfold Latch.left
    rw [hx]
    simp [Latch.holdoffOver]
  have hl := Lcu.left_set s.tsu.timebase s.lcu n l (d := (State.takeHoldoffEnd n s).lcu) (by rw [hdef]; rfl)
  have hw : (State.takeHoldoffEnd n s).work = (decide (s.qdu.settling = some 0)).toNat
      + (State.takeHoldoffEnd n s).lcu.left s.tsu.timebase
      + 2 * s.sample.ab.isSome.toNat + s.sample.z.isSome.toNat + edgesLeft s.sample.edges
      + edgesLeft s.sample.refEdges + s.tsu.left + s.timerExpired.toNat := rfl
  rw [hw]
  unfold State.work
  omega

/-- Every event of the TSU or the PCU that is next lowers what is left. -/
theorem State.takeSpeedEvent_work (s : State) (e : FieldEvent) (he : s.nextSpeedEvent = some e) :
    (s.takeEvent e).work < s.work := by
  have hfree : ∀ n, ({ s with free := n } : State).work = s.work := fun _ => rfl
  rw [← hfree (s.free + 1)]
  have hstep : ∀ d, s.stepDue = some d → (s.takeEvent .step).work < ({ s with free := s.free + 1 } : State).work := by
    intro d hd
    unfold State.takeEvent
    simp only [hd]
    exact State.takeStep_work _ _ { s with free := s.free + 1 } hd
  unfold State.nextSpeedEvent at he
  split at he
  · rename_i d hd hst
    split at he
    · cases he; exact State.stall_work _ hst
    · cases he; exact hstep d hd
  · rename_i d hd _
    cases he; exact hstep d hd
  · rename_i hst
    cases he; exact State.stall_work _ hst
  · split at he
    · rename_i h; cases he; exact State.decay_work _ h
    · cases he

/-- Every event that is next lowers what is left. -/
theorem State.takeEvent_work (s : State) (e : FieldEvent) (he : s.nextEvent = some e) : (s.takeEvent e).work < s.work := by
  have hfree : ∀ n, ({ s with free := n } : State).work = s.work := fun _ => rfl
  rw [← hfree (s.free + 1)]
  unfold State.nextEvent at he
  split at he
  · rename_i h; cases he; exact State.takeSettlingEnd_work _ h
  · split at he
    · rename_i n h
      cases he
      exact State.takeLatchSettlingEnd_work _ _ (firstLatch_some h)
    · split at he
      · rename_i n h
        cases he
        exact State.takeHoldoffEnd_work _ _ (firstLatch_some h)
      · split at he
        · rename_i e' hne
          cases he
          rw [hfree]
          exact State.takeSpeedEvent_work s e hne
        · split at he
          · rename_i e' hne
            cases he
            unfold State.nextFieldEvent at hne
            dsimp only at hne
            have enc : ∀ e1, (if s.quadDue then some FieldEvent.quadError
                else if s.indexDue then some .indexEvent else none) = some e1 →
                (s.takeEvent e1).work < ({ s with free := s.free + 1 } : State).work := by
              intro e1 h1
              split at h1
              · rename_i hq; cases h1; exact State.takeQuadError_work _ { s with free := s.free + 1 } hq
              · split at h1
                · rename_i hi; cases h1; exact State.takeIndexEvent_work _ { s with free := s.free + 1 } hi
                · cases h1
            have latch : ∀ e1, s.nextLatchEvent = some e1 →
                (s.takeEvent e1).work < ({ s with free := s.free + 1 } : State).work := by
              intro e1 h1
              rcases State.nextLatchEvent_some h1 with ⟨m, rfl, hm⟩ | ⟨n, rfl, hn⟩
              · exact State.takeRefEdge_work _ { s with free := s.free + 1 } hm
              · exact State.takeLcuEdge_work _ _ { s with free := s.free + 1 } hn
            split at hne
            · rename_i e1 n h1 h2
              split at hne
              · cases hne; exact latch _ h2
              · cases hne; exact enc _ h1
            · rename_i e1 h1 _
              cases hne; exact enc _ h1
            · exact latch _ hne
          · split at he
            · rename_i ht
              cases he; exact State.takeTimer_work _ { s with free := s.free + 1 } ht
            · cases he

/-! ## Nothing is left -/

/-- Where neither step, stall expiry nor decay is next, none of them is due. -/
theorem State.speedDue_of_next (s : State) (h : s.nextSpeedEvent = none) :
    s.stepDue = none ∧ s.stallDue = false ∧ s.decayDue = false := by
  unfold State.nextSpeedEvent at h
  split at h
  · split at h <;> cases h
  · cases h
  · cases h
  · rename_i hs hst
    split at h
    · cases h
    · rename_i hd
      exact ⟨hs, hst, by simpa using hd⟩

/-- Where no taking of a latch edge is next, none is due. -/
theorem State.latchDue_of_next (s : State) (h : s.nextLatchEvent = none) :
    s.edgeDue = none ∧ firstLatch s.refDue = none := by
  unfold State.nextLatchEvent at h
  split at h
  · cases h
  · cases h
  · rename_i he
    exact ⟨he, Option.map_eq_none_iff.mp h⟩

/-- Where no event is next, none is due. -/
theorem State.anyDue_of_nextEvent (s : State) (h : s.nextEvent = none) : s.anyDue = false := by
  unfold State.nextEvent at h
  have first : ∀ p : Fin 4 → Bool, firstLatch p = none → p 0 = false ∧ p 1 = false ∧ p 2 = false ∧ p 3 = false := by
    intro p hp
    unfold firstLatch at hp
    cases h0 : p 0 <;> cases h1 : p 1 <;> cases h2 : p 2 <;> cases h3 : p 3 <;> simp [h0, h1, h2, h3] at hp ⊢
  split at h
  · cases h
  · rename_i h1
    split at h
    · cases h
    · rename_i h2
      split at h
      · cases h
      · rename_i h3
        obtain ⟨a0, a1, a2, a3⟩ := first _ h2
        obtain ⟨b0, b1, b2, b3⟩ := first _ h3
        split at h
        · cases h
        · rename_i hsp
          obtain ⟨hs, hst, hd⟩ := State.speedDue_of_next s hsp
          split at h
          · cases h
          · rename_i hne
            split at h
            · cases h
            · rename_i ht
              have hq : s.quadDue = false ∧ s.indexDue = false ∧ s.nextLatchEvent = none := by
                unfold State.nextFieldEvent at hne
                dsimp only at hne
                cases hq : s.quadDue <;> cases hi : s.indexDue <;> cases he : s.nextLatchEvent <;>
                  simp [hq, hi, he] at hne ⊢
                all_goals split at hne <;> cases hne
              obtain ⟨he, hr⟩ := State.latchDue_of_next s hq.2.2
              obtain ⟨r0, r1, r2, r3⟩ := first _ hr
              unfold State.anyDue
              simp only [Bool.not_eq_true] at h1 ht
              simp [h1, a0, a1, a2, a3, b0, b1, b2, b3, hs, hst, hd, ht, hq, he, r0, r1, r2, r3]

/-- Draining for as long as a count falls at each event leaves no event next. -/
theorem State.drainBy_next {next : State → Option FieldEvent} {left : State → Nat}
    (hl : ∀ s e, next s = some e → left (s.takeEvent e) < left s) (n : Nat) (s : State) (h : left s < n) :
    next (State.drainBy next n s) = none := by
  induction n generalizing s with
  | zero => exact absurd h (Nat.not_lt_zero _)
  | succ n ih =>
    unfold State.drainBy
    split
    · rename_i e he
      have := hl s e he
      exact ih _ (by omega)
    · rename_i he
      exact he

/-- Draining for as long as there is work leaves no event due. -/
theorem State.drain_anyDue_of_work (n : Nat) (s : State) (h : s.work < n) : (State.drain n s).anyDue = false :=
  State.anyDue_of_nextEvent _ (State.drainBy_next State.takeEvent_work n s h)

/-! ## Catching up -/

/-- A request that reads the position or the speed finds no step, stall expiry or decay waiting. -/
theorem State.catchUp_speedDue (s : State) : s.catchUp.speedDue = false := by
  unfold State.catchUp
  split
  · obtain ⟨h1, h2, h3⟩ := State.speedDue_of_next _
      (State.drainBy_next State.takeSpeedEvent_work maxSampleEvents s (Nat.lt_succ_of_le s.work_le))
    unfold State.settle
    split
    · have hs : (State.drainBy State.nextSpeedEvent maxSampleEvents s).endSample.sample.inSample = false := rfl
      unfold State.speedDue State.stepDue State.stallDue State.decayDue
      rw [hs]
      simp only [Bool.false_and, Bool.or_false, Bool.false_eq_true, if_false]
      split <;> rfl
    · simp [State.speedDue, h1, h2, h3]
  · rename_i h
    simpa using h

/-- A request that reads the position or the speed is executed on the state that has caught up, which offers it too. -/
theorem State.executeAfterStep_offers {s : State} {kind : Byte} {r : Request} {rest : List Request} (owner : Owner)
    (ho : s.offers kind r rest) :
    live (State.executeAfterStep kind owner) s = live (State.executeKind kind owner) s.catchUp
      ∧ s.catchUp.offers kind r rest := by
  have hc : s.catchUp.offers kind r rest := by
    obtain ⟨h1, h2, h3, h4, -, h5, h6⟩ := ho
    exact ⟨by simpa using h1, by simpa using h2, by simpa using h3, by simpa using h4, fun _ => s.catchUp_speedDue,
      h5, h6⟩
  obtain ⟨h1, h2, h3, h4, -, h5, h6⟩ := ho
  have hk : s.offersKind kind = true := by
    unfold State.offersKind
    rw [h2]
    simp [Lkp.executes, h3, h4, h5, h6]
  refine ⟨?_, hc⟩
  unfold live
  rw [hc.1, h1]
  unfold State.executeAfterStep
  rw [hk]
  rfl

/-- Catching up again at once changes nothing. -/
theorem State.catchUp_catchUp (s : State) : s.catchUp.catchUp = s.catchUp := by
  have h := s.catchUp_speedDue
  generalize s.catchUp = u at h
  unfold State.catchUp
  rw [h]
  rfl

/-- In a sample that has moved, a request executes as on the state that has caught up, or it executes in neither. -/
theorem State.execute_moved (accepts : Request → Bool) (act : Request → State → State × Answer) {s : State}
    (hm : s.sample.moved = true) :
    live (State.execute accepts act) s = live (State.execute accepts act) s.catchUp
      ∨ (live (State.execute accepts act) s = .next s
        ∧ live (State.execute accepts act) s.catchUp = .next s.catchUp) := by
  have hp : s.pairSpeed = s.catchUp := by unfold State.pairSpeed; rw [hm]; rfl
  unfold live
  rw [State.catchUp_nrstLow]
  cases s.nrstLow
  · simp only [Bool.false_eq_true, if_false]
    unfold State.execute
    rw [State.catchUp_lkp, State.pairSpeed_eq fun _ => s.catchUp_speedDue, hp]
    split
    · split
      · exact .inl rfl
      · exact .inr ⟨rfl, rfl⟩
    · exact .inr ⟨rfl, rfl⟩
  · exact .inr ⟨rfl, rfl⟩

end Sys2Proof.Machine
end

