-- ==== Sys2Proof/Laws/Owners.lean ====
section
/-! SUPPORT. What each owner of a request can do: it leaves the state to an evaluation, or it passes the checks named and
makes its one effect. -/

namespace Sys2Proof.Machine

@[simp] theorem refuse_fst (st : Status) (s : State) : (refuse st s).1 = s.evaluate := rfl
@[simp] theorem refuse_snd (st : Status) (s : State) : (refuse st s).2 = ⟨st, []⟩ := rfl
@[simp] theorem carryOut_fst (st : Status) (b : List Byte) (s : State) : (carryOut st b s).1 = s.evaluate := rfl
@[simp] theorem carryOut_snd (st : Status) (b : List Byte) (s : State) : (carryOut st b s).2 = ⟨st, b⟩ := rfl
@[simp] theorem carryOutShow_fst (b : State → List Byte) (s : State) : (carryOutShow b s).1 = s.evaluate := rfl
@[simp] theorem carryOutShow_snd (b : State → List Byte) (s : State) : (carryOutShow b s).2 = ⟨.ok, b s.evaluate⟩ := rfl

theorem ownLinkStatus_effect (s : State) (p : List Byte) :
    (ownLinkStatus s p).1 = s.evaluate
      ∨ ∃ c, (ownLinkStatus s p).1 = State.evaluate { s with lkp := { s.lkp with counters := c } } := by
  unfold ownLinkStatus
  split
  · exact .inl rfl
  · exact .inr ⟨_, rfl⟩

theorem ownAxisSet_effect (s : State) (p : List Byte) :
    (ownAxisSet s p).1 = s.evaluate
      ∨ ∃ a : AxisConfig, 8 ≤ a.cpr ∧ a.cpr ≤ 65536 ∧ a.filterLen ≤ 15 ∧ s.rft.sync.state = .free
        ∧ s.cts.active.conflicts a.cpr = false ∧ s.cts.shadow.conflicts a.cpr = false
        ∧ (ownAxisSet s p).1 = (s.setAxis a).evaluate := by
  unfold ownAxisSet
  split
  · exact .inl rfl
  · rename_i hr
    split
    · split
      · exact .inl rfl
      · rename_i hf
        split
        · exact .inl rfl
        · rename_i hc
          simp only [Bool.or_eq_true, not_or, Bool.not_eq_true] at hc
          simp only [not_or, not_lt] at hr
          exact .inr ⟨_, hr.1, hr.2.1, hr.2.2, not_not.mp hf, hc.1, hc.2, rfl⟩
    · exact .inl rfl

theorem ownPositionSet_effect (s : State) (p : List Byte) :
    (ownPositionSet s p).1 = s.evaluate
      ∨ ∃ q : AbsPos, q.angle < s.pcu.axis.cpr ∧ s.rft.sync.state = .free
        ∧ (ownPositionSet s p).1 = (s.jump q).evaluate := by
  unfold ownPositionSet
  split
  · exact .inl rfl
  · rename_i hr
    split
    · exact .inl rfl
    · split
      · exact .inl rfl
      · rename_i hf
        exact .inr ⟨_, not_le.mp hr, not_not.mp hf, rfl⟩

theorem ownIndexCheckSet_effect (s : State) (p : List Byte) :
    (ownIndexCheckSet s p).1 = s.evaluate
      ∨ ∃ c : CheckSet, 1 ≤ c.limit ∧ c.limit ≤ 7
        ∧ (ownIndexCheckSet s p).1 = State.evaluate { s with rft := { s.rft with configured := c } } := by
  unfold ownIndexCheckSet
  split
  · exact .inl rfl
  · rename_i hr
    split
    · simp only [not_or, not_lt] at hr
      exact .inr ⟨_, hr.1, hr.2, rfl⟩
    · exact .inl rfl

theorem ownSeek_effect (s : State) (p : List Byte) :
    (ownSeek s p).1 = s.evaluate
      ∨ ∃ src, u16At p 2 < s.pcu.axis.cpr ∧ s.rft.sync.state ≠ .seeking ∧ s.rsc.hasRoom = true
        ∧ (ownSeek s p).1 = (s.startSeek src p).evaluate := by
  unfold ownSeek
  split
  · exact .inl rfl
  · rename_i hr
    split
    · exact .inl rfl
    · split
      · exact .inl rfl
      · split
        · exact .inl rfl
        · rename_i hs
          split
          · exact .inl rfl
          · rename_i hroom
            simp only [not_or, not_le] at hr
            exact .inr ⟨_, hr.1, hs, by simpa using hroom, rfl⟩

theorem ownSeekAbort_effect (s : State) (p : List Byte) :
    (ownSeekAbort s p).1 = s.evaluate
      ∨ ∃ r, s.rft.sync = .seeking r ∧ (ownSeekAbort s p).1 = (s.failSeek r .aborted .abort).evaluate := by
  unfold ownSeekAbort
  split
  · rename_i r h
    exact .inr ⟨r, h, rfl⟩
  · exact .inl rfl
  · exact .inl rfl
  · exact .inl rfl

theorem ownRelease_effect (s : State) (p : List Byte) :
    (ownRelease s p).1 = s.evaluate
      ∨ (∃ r, s.rft.sync = .seeking r ∧ (ownRelease s p).1 = (s.failSeek r .aborted .release).evaluate)
      ∨ ((s.rft.sync.state = .locked ∨ s.rft.sync.state = .lost)
        ∧ (ownRelease s p).1 = ((s.changeSync .free .release).bscLeft).evaluate) := by
  unfold ownRelease
  split
  · exact .inl rfl
  · rename_i r h
    exact .inr (.inl ⟨r, h, rfl⟩)
  · rename_i r h
    exact .inr (.inr ⟨by simp [h, Sync.state], rfl⟩)
  · rename_i r h
    exact .inr (.inr ⟨by simp [h, Sync.state], rfl⟩)

theorem ownSpeedSet_effect (s : State) (p : List Byte) :
    (ownSpeedSet s p).1 = s.evaluate
      ∨ ∃ depth stallMs limit, (depth = 1 ∨ depth = 2 ∨ depth = 4 ∨ depth = 8) ∧ stallMs ≠ 0 ∧ limit ≤ 16777215
        ∧ (ownSpeedSet s p).1 = (s.setSpeed depth stallMs limit).evaluate := by
  unfold ownSpeedSet
  split
  · exact .inl rfl
  · rename_i hr
    split
    · exact .inl rfl
    · rename_i hd
      simp only [not_or, not_lt] at hr
      exact .inr ⟨_, _, _, not_not.mp (not_or.mp hd).1, hr.1, hr.2, rfl⟩

theorem ownWindowAdd_effect (s : State) (p : List Byte) :
    (ownWindowAdd s p).1 = s.evaluate
      ∨ ∃ (t : Fin 8) (w : Window), w.on < s.pcu.axis.cpr ∧ w.off < s.pcu.axis.cpr ∧ w.on ≠ w.off
        ∧ s.bsc.commit = none ∧ (∀ u ∈ (s.cts.shadow.tracks.get t).windows, w.overlaps u = false)
        ∧ (s.cts.shadow.tracks.get t).windows.length < 16 ∧ s.cts.shadow.pool < 64
        ∧ (ownWindowAdd s p).1 = (s.addWindow t w).evaluate := by
  unfold ownWindowAdd
  split
  · exact .inl rfl
  · rename_i t _
    dsimp only
    split
    · exact .inl rfl
    · rename_i hr
      split
      · exact .inl rfl
      · split
        · exact .inl rfl
        · rename_i hon
          split
          · exact .inl rfl
          · rename_i hl
            split
            · exact .inl rfl
            · rename_i ho
              split
              · exact .inl rfl
              · rename_i ht
                split
                · exact .inl rfl
                · rename_i hp
                  simp only [not_or, not_le] at hr
                  refine .inr ⟨t, _, hr.1, hr.2, hon, ?_, ?_, not_le.mp ht, not_le.mp hp, rfl⟩
                  · simpa [State.shadowLocked] using hl
                  · simpa using ho

theorem ownWindowRemove_effect (s : State) (p : List Byte) :
    (ownWindowRemove s p).1 = s.evaluate
      ∨ ∃ (t : Fin 8) (i : Nat), i < (s.cts.shadow.tracks.get t).windows.length ∧ s.bsc.commit = none
        ∧ (ownWindowRemove s p).1 = (s.removeWindow t i).evaluate := by
  unfold ownWindowRemove
  split
  · exact .inl rfl
  · rename_i t _
    dsimp only
    split
    · exact .inl rfl
    · split
      · exact .inl rfl
      · rename_i hl
        split
        · rename_i i u hi _
          exact .inr ⟨t, i, (List.findIdx?_eq_some_iff_findIdx_eq.mp hi).1, by simpa [State.shadowLocked] using hl, rfl⟩
        · exact .inl rfl

theorem ownTrackClear_effect (s : State) (p : List Byte) :
    (ownTrackClear s p).1 = s.evaluate
      ∨ ∃ t : Fin 8, s.bsc.commit = none ∧ (ownTrackClear s p).1 = (s.clearTrack t).evaluate := by
  unfold ownTrackClear
  split
  · exact .inl rfl
  · rename_i t _
    split
    · exact .inl rfl
    · rename_i hl
      exact .inr ⟨t, by simpa [State.shadowLocked] using hl, rfl⟩

theorem ownTrackParamSet_effect (s : State) (p : List Byte) :
    (ownTrackParamSet s p).1 = s.evaluate
      ∨ ∃ (t : Fin 8) (l h : Nat), h ≤ 255 ∧ s.bsc.commit = none
        ∧ (ownTrackParamSet s p).1 = (s.setParams t l h).evaluate := by
  unfold ownTrackParamSet
  split
  · exact .inl rfl
  · rename_i t _
    split
    · exact .inl rfl
    · rename_i hr
      split
      · exact .inl rfl
      · split
        · exact .inl rfl
        · rename_i hl
          exact .inr ⟨t, _, _, not_lt.mp hr, by simpa [State.shadowLocked] using hl, rfl⟩

theorem ownShadowRevert_effect (s : State) (p : List Byte) :
    (ownShadowRevert s p).1 = s.evaluate
      ∨ (s.bsc.commit = none ∧ (ownShadowRevert s p).1 = s.revertShadow.evaluate) := by
  unfold ownShadowRevert
  split
  · exact .inl rfl
  · rename_i hl
    exact .inr ⟨by simpa [State.shadowLocked] using hl, rfl⟩

theorem ownCommitNow_effect (s : State) (p : List Byte) :
    (ownCommitNow s p).1 = s.evaluate ∨ (s.bsc.commit = none ∧ (ownCommitNow s p).1 = s.swap.evaluate) := by
  unfold ownCommitNow
  split
  · exact .inl rfl
  · split
    · exact .inl rfl
    · rename_i hc
      exact .inr ⟨by simpa using hc, rfl⟩

theorem commitLater_effect (c : CommitPolicy) (s : State) :
    (commitLater c s).1 = s.evaluate
      ∨ (s.rft.sync.state = .locked ∧ s.bsc.commit = none ∧ s.rsc.hasRoom = true
        ∧ (commitLater c s).1 = (s.startCommit c).evaluate) := by
  unfold commitLater
  split
  · exact .inl rfl
  · rename_i hs
    split
    · exact .inl rfl
    · split
      · exact .inl rfl
      · rename_i hc
        split
        · exact .inl rfl
        · rename_i hroom
          exact .inr ⟨not_not.mp hs, by simpa using hc, by simpa using hroom, rfl⟩

theorem ownCommitAtPosition_effect (s : State) (p : List Byte) :
    (ownCommitAtPosition s p).1 = s.evaluate
      ∨ (u16At p 2 < s.pcu.axis.cpr ∧ s.rft.sync.state = .locked ∧ s.bsc.commit = none ∧ s.rsc.hasRoom = true
        ∧ (ownCommitAtPosition s p).1 = (s.startCommit (.atPosition (u16At p 2))).evaluate) := by
  unfold ownCommitAtPosition
  split
  · exact .inl rfl
  · rename_i hr
    split
    · exact .inl rfl
    · rename_i hp
      simp only [not_or, not_not] at hp
      rcases commitLater_effect (.atPosition (u16At p 2)) s with h | ⟨h1, h2, h3, h4⟩
      · exact .inl h
      · refine .inr ⟨?_, h1, h2, h3, h4⟩
        simpa [hp.1] using hr

theorem ownCommitAtIndex_effect (s : State) (p : List Byte) :
    (ownCommitAtIndex s p).1 = s.evaluate
      ∨ (s.rft.sync.state = .locked ∧ s.bsc.commit = none ∧ s.rsc.hasRoom = true
        ∧ (ownCommitAtIndex s p).1 = (s.startCommit .atIndex).evaluate) := by
  unfold ownCommitAtIndex
  split
  · exact .inl rfl
  · exact commitLater_effect .atIndex s

theorem ownCommitCancel_effect (s : State) (p : List Byte) :
    (ownCommitCancel s p).1 = s.evaluate
      ∨ ∃ c, s.bsc.commit = some c ∧ (ownCommitCancel s p).1 = (s.cancelCommit c).evaluate := by
  unfold ownCommitCancel
  split
  · rename_i c h
    exact .inr ⟨c, h, rfl⟩
  · exact .inl rfl

theorem ownOutputEnable_effect (s : State) (p : List Byte) :
    (ownOutputEnable s p).1 = s.evaluate
      ∨ ∃ e, (ownOutputEnable s p).1 = State.evaluate { s with tev := { s.tev with enable := e } } := by
  unfold ownOutputEnable
  split
  · exact .inl rfl
  · exact .inr ⟨_, rfl⟩

theorem ownTrackModeSet_effect (s : State) (p : List Byte) :
    (ownTrackModeSet s p).1 = s.evaluate
      ∨ ∃ t m f q b, (ownTrackModeSet s p).1 = (s.setMode t m f q b).evaluate := by
  unfold ownTrackModeSet
  split
  · exact .inl rfl
  · split
    · split
      · exact .inl rfl
      · exact .inr ⟨_, _, _, _, _, rfl⟩
    · exact .inl rfl

theorem ownTrackStatus_effect (s : State) (p : List Byte) : (ownTrackStatus s p).1 = s.evaluate := by
  unfold ownTrackStatus
  split <;> rfl

theorem ownTrackList_effect (s : State) (p : List Byte) : (ownTrackList s p).1 = s.evaluate := by
  unfold ownTrackList
  split
  · rfl
  · split <;> rfl

theorem ownLatchSet_effect (s : State) (p : List Byte) :
    (ownLatchSet s p).1 = s.evaluate
      ∨ ∃ n e m u f, f ≤ 15
        ∧ (ownLatchSet s p).1 = (s.setLatch n ((s.lcu.latches.get n).configure e m u f)).evaluate := by
  unfold ownLatchSet
  split
  · exact .inl rfl
  · rename_i n _
    split
    · exact .inl rfl
    · rename_i hf
      split
      · exact .inr ⟨n, _, _, _, _, not_lt.mp hf, rfl⟩
      · exact .inl rfl

theorem ownLatchArm_effect (s : State) (p : List Byte) :
    (ownLatchArm s p).1 = s.evaluate
      ∨ ∃ n, (s.lcu.latches.get n).arm ≠ .off
        ∧ (ownLatchArm s p).1 = (s.setLatch n { s.lcu.latches.get n with arm := .armed }).evaluate := by
  unfold ownLatchArm
  split
  · exact .inl rfl
  · rename_i n _
    dsimp only
    split
    · exact .inl rfl
    · rename_i h
      exact .inr ⟨n, h, rfl⟩

theorem ownCaptureRead_effect (s : State) (p : List Byte) :
    (ownCaptureRead s p).1 = s.evaluate
      ∨ ∃ k, (ownCaptureRead s p).1 = State.evaluate { s with lcu := { s.lcu with queue := s.lcu.queue.drop k } } := by
  unfold ownCaptureRead
  split
  · exact .inl rfl
  · exact .inr ⟨_, rfl⟩

theorem ownCaptureFlush_effect (s : State) (p : List Byte) :
    (ownCaptureFlush s p).1 = State.evaluate { s with lcu := { s.lcu with queue := [] } } := rfl

theorem ownReportSet_effect (s : State) (p : List Byte) :
    (ownReportSet s p).1 = s.evaluate
      ∨ ∃ e n, (ownReportSet s p).1 = State.evaluate { s with rsc := s.rsc.takenAll.configure e n s.tsu.timebase } := by
  unfold ownReportSet
  split
  · exact .inl rfl
  · split
    · exact .inl rfl
    · exact .inr ⟨_, _, rfl⟩

theorem ownReportStatus_effect (s : State) (p : List Byte) :
    (ownReportStatus s p).1 = s.takeReports.evaluate := rfl

theorem ownReportGrant_effect (s : State) (p : List Byte) :
    (ownReportGrant s p).1 = s.evaluate
      ∨ ∃ g, (ownReportGrant s p).1
        = State.evaluate { s with rsc := { s.rsc with credit := grantCredit s.rsc.credit g } } := by
  unfold ownReportGrant
  split
  · exact .inl rfl
  · exact .inr ⟨_, rfl⟩

end Sys2Proof.Machine
end

