-- ==== Sys2Proof/Laws/Kept.lean ====
section
/-! SUPPORT. What a command can do, said once: a property of the state that does not look at the link, the sample, the
free values and the queue, and that each single effect of the part keeps, is kept by every command and every step. -/

namespace Sys2Proof.Machine

/-- A property of the state that each single effect of the part keeps. -/
structure Kept (P : State → Prop) : Prop where
  link : ∀ (s : State) k, P s → P { s with lkp := k }
  sample : ∀ (s : State) x, P s → P { s with sample := x }
  free : ∀ (s : State) n, P s → P { s with free := n }
  queue : ∀ (s : State) q, P s → P { s with pending := q }
  pin : ∀ (s : State) b, P s → P { s with nrstLow := b }
  reset : ∀ c n b (s : State), P (s.resetTo c n b)
  evaluate : ∀ (s : State), P s → P s.evaluate
  sampleInputs : ∀ lv (s : State), P s → P (s.sampleInputs lv)
  settlingEnd : ∀ (s : State), P s → P s.takeSettlingEnd
  latchSettlingEnd : ∀ n (s : State), P s → P (s.takeLatchSettlingEnd n)
  holdoffEnd : ∀ n (s : State), P s → P (s.takeHoldoffEnd n)
  step : ∀ d turn (s : State), s.stepDue = some d → P s → P (s.takeStep d turn)
  stepSpeed : ∀ d (s : State), s.stepDue = some d → P s → P (s.stepSpeed d)
  quadError : ∀ turn (s : State), s.quadDue = true → P s → P (s.takeQuadError turn)
  countQuad : ∀ (s : State), s.quadDue = true → P s → P s.countQuad
  indexEvent : ∀ turn (s : State), s.indexDue = true → P s → P (s.takeIndexEvent turn)
  refEdge : ∀ n (s : State), P s → P (s.takeRefEdge n)
  lcuEdge : ∀ n back (s : State), P s → P (s.takeLcuEdge n back)
  stall : ∀ (s : State), P s → P s.enterStall
  decay : ∀ (s : State), P s → P s.decay
  timer : ∀ back (s : State), s.timerDue = true → P s → P (s.takeTimer back)
  handOver : ∀ k (s : State), s.kindSendable k = true → P s → P (s.handOverKind k)
  setAxis : ∀ a (s : State), 8 ≤ a.cpr → a.cpr ≤ 65536 → s.rft.sync.state = .free → s.cts.active.conflicts a.cpr = false →
    s.cts.shadow.conflicts a.cpr = false → P s → P (s.setAxis a)
  positionSet : ∀ q (s : State), q.angle < s.pcu.axis.cpr → s.rft.sync.state = .free → P s → P (s.jump q)
  checks : ∀ c (s : State), 1 ≤ c.limit → c.limit ≤ 7 → P s → P { s with rft := { s.rft with configured := c } }
  seek : ∀ src p (s : State), u16At p 2 < s.pcu.axis.cpr → s.rft.sync.state ≠ .seeking → s.rsc.hasRoom = true → P s →
    P (s.startSeek src p)
  seekAbort : ∀ r c (s : State), s.rft.sync = .seeking r → P s → P (s.failSeek r .aborted c)
  release : ∀ (s : State), s.rft.sync.state = .locked ∨ s.rft.sync.state = .lost → P s → P (s.changeSync .free .release).bscLeft
  setSpeed : ∀ d m l (s : State), P s → P (s.setSpeed d m l)
  addWindow : ∀ t w (s : State), w.on < s.pcu.axis.cpr → w.off < s.pcu.axis.cpr → w.on ≠ w.off → s.bsc.commit = none →
    (∀ u ∈ (s.cts.shadow.tracks.get t).windows, w.overlaps u = false) →
    (s.cts.shadow.tracks.get t).windows.length < 16 → s.cts.shadow.pool < 64 → P s → P (s.addWindow t w)
  removeWindow : ∀ t i (s : State), i < (s.cts.shadow.tracks.get t).windows.length → s.bsc.commit = none → P s →
    P (s.removeWindow t i)
  clearTrack : ∀ t (s : State), s.bsc.commit = none → P s → P (s.clearTrack t)
  setParams : ∀ t l h (s : State), s.bsc.commit = none → P s → P (s.setParams t l h)
  revertShadow : ∀ (s : State), s.bsc.commit = none → P s → P s.revertShadow
  commitNow : ∀ (s : State), s.bsc.commit = none → P s → P s.swap
  startCommit : ∀ c (s : State), s.rft.sync.state = .locked → s.bsc.commit = none → s.rsc.hasRoom = true →
    (∀ p, c = .atPosition p → p < s.pcu.axis.cpr) → P s → P (s.startCommit c)
  cancelCommit : ∀ c (s : State), s.bsc.commit = some c → P s → P (s.cancelCommit c)
  setEnable : ∀ e (s : State), P s → P (State.evaluate { s with tev := { s.tev with enable := e } })
  setMode : ∀ t m f q b (s : State), P s → P ((s.setMode t m f q b).evaluate)
  configureLatch : ∀ n e m u f (s : State), P s → P (s.setLatch n ((s.lcu.latches.get n).configure e m u f))
  armLatch : ∀ n (s : State), (s.lcu.latches.get n).arm ≠ .off → P s →
    P (s.setLatch n { s.lcu.latches.get n with arm := .armed })
  dropCaptures : ∀ k (s : State), P s → P { s with lcu := { s.lcu with queue := s.lcu.queue.drop k } }
  reports : ∀ e n (s : State), P s → P { s with rsc := s.rsc.takenAll.configure e n s.tsu.timebase }
  taken : ∀ own mask (s : State), P s → P { s with rsc := s.rsc.taken own mask }
  order : ∀ code (s : State), P s → P { s with rsc := s.rsc.ordered code }
  grant : ∀ g (s : State), P s → P { s with rsc := { s.rsc with credit := grantCredit s.rsc.credit g } }

namespace Kept

variable {P : State → Prop}

theorem endSample (h : Kept P) (s : State) (hs : P s) : P s.endSample := h.sample _ _ (h.evaluate _ hs)

theorem noteMove (h : Kept P) (s : State) (hs : P s) : P s.noteMove := h.sample s _ hs

theorem takeStepTurn (h : Kept P) (d : Dir) (turn : StepTurn) (s : State) (hd : s.stepDue = some d) (hs : P s) :
    P (s.takeStepTurn d turn) := by
  cases turn with
  | speed => exact h.sample _ _ (h.stepSpeed d s hd hs)
  | take turn => exact h.step d turn s hd hs

theorem takeQuadTurn (h : Kept P) (turn : QuadTurn) (s : State) (hd : s.quadDue = true) (hs : P s) :
    P (s.takeQuadTurn turn) := by
  cases turn with
  | count => exact h.sample _ _ (h.countQuad s hd hs)
  | take turn => exact h.quadError turn s hd hs

theorem takeReports (h : Kept P) (s : State) (hs : P s) : P s.takeReports := h.taken _ _ s hs

theorem beforeHandOver (h : Kept P) (k : ReportKind) (s : State) (hs : P s) : P (s.beforeHandOver k) := by
  have hx : ∀ own mask, P { s.closeViews with rsc := s.rsc.taken own mask, free := s.free + 1 } := fun own mask =>
    h.taken own mask _ (h.free _ (s.free + 1) (h.sample s s.closeViews.sample hs))
  unfold State.beforeHandOver Rsc.beforeReport
  split
  · exact hx _ _
  · exact hx _ _

theorem settle (h : Kept P) (s : State) (hs : P s) : P s.settle := by
  unfold State.settle
  split
  · exact h.endSample s hs
  · exact hs

theorem takeSpeedEvent (h : Kept P) (s : State) (e : FieldEvent) (he : s.nextSpeedEvent = some e) (hs : P s) :
    P (s.takeEvent e) := by
  have hf : P { s with free := s.free + 1 } := h.free s _ hs
  have hstep : ∀ d, s.stepDue = some d → P (s.takeEvent .step) := by
    intro d hd
    unfold State.takeEvent
    simp only [hd]
    exact h.step _ _ { s with free := s.free + 1 } hd hf
  unfold State.nextSpeedEvent at he
  split at he
  · rename_i d hd _
    split at he
    · cases he; exact h.noteMove _ (h.stall _ hf)
    · cases he; exact hstep d hd
  · rename_i d hd _
    cases he; exact hstep d hd
  · cases he; exact h.noteMove _ (h.stall _ hf)
  · split at he
    · cases he; exact h.noteMove _ (h.decay _ hf)
    · cases he

theorem takeEvent (h : Kept P) (s : State) (e : FieldEvent) (he : s.nextEvent = some e) (hs : P s) :
    P (s.takeEvent e) := by
  have hf : P { s with free := s.free + 1 } := h.free s _ hs
  unfold State.nextEvent at he
  split at he
  · cases he; exact h.settlingEnd _ hf
  · split at he
    · cases he; exact h.latchSettlingEnd _ _ hf
    · split at he
      · cases he; exact h.holdoffEnd _ _ hf
      · split at he
        · rename_i e' hne
          cases he
          exact h.takeSpeedEvent s e hne hs
        · split at he
          · rename_i e' hne
            cases he
            unfold State.nextFieldEvent at hne
            dsimp only at hne
            have enc : ∀ e1, (if s.quadDue then some FieldEvent.quadError
                else if s.indexDue then some .indexEvent else none) = some e1 → P (s.takeEvent e1) := by
              intro e1 h1
              split at h1
              · rename_i hq
                cases h1; exact h.quadError _ { s with free := s.free + 1 } hq hf
              · split at h1
                · rename_i hi
                  cases h1; exact h.indexEvent _ { s with free := s.free + 1 } hi hf
                · cases h1
            have latch : ∀ e1, s.nextLatchEvent = some e1 → P (s.takeEvent e1) := by
              intro e1 h1
              rcases State.nextLatchEvent_some h1 with ⟨m, rfl, -⟩ | ⟨n, rfl, -⟩
              · exact h.refEdge _ _ hf
              · exact h.lcuEdge _ _ _ hf
            split at hne
            · rename_i e1 n h1 h2
              split at hne
              · cases hne; exact latch _ h2
              · cases hne; exact enc _ h1
            · rename_i e1 h1 _
              cases hne; exact enc _ h1
            · exact latch _ hne
          · split at he
            · rename_i ht
              cases he; exact h.timer _ { s with free := s.free + 1 } ht hf
            · cases he

theorem drainBy {next : State → Option FieldEvent}
    (hn : ∀ s e, next s = some e → P s → P (s.takeEvent e)) (n : Nat) (s : State) (hs : P s) :
    P (State.drainBy next n s) := by
  induction n generalizing s with
  | zero => exact hs
  | succ n ih =>
    unfold State.drainBy
    split
    · rename_i e he
      exact ih _ (hn s e he hs)
    · exact hs

theorem drain (h : Kept P) (n : Nat) (s : State) (hs : P s) : P (State.drain n s) := Kept.drainBy h.takeEvent n s hs

theorem catchUp (h : Kept P) (s : State) (hs : P s) : P s.catchUp := by
  unfold State.catchUp
  split
  · exact h.settle _ (Kept.drainBy h.takeSpeedEvent _ s hs)
  · exact hs

theorem pairSpeed (h : Kept P) (s : State) (hs : P s) : P s.pairSpeed := by
  unfold State.pairSpeed
  split
  · exact h.catchUp s hs
  · exact hs

theorem takeSample (h : Kept P) (lv : Levels) (s : State) (hs : P s) : P (s.takeSample lv) := by
  unfold State.takeSample
  refine h.settle _ (h.sampleInputs _ _ ?_)
  unfold State.closeSample
  split
  · exact h.endSample _ (h.drain _ _ hs)
  · exact hs

theorem orderFor (h : Kept P) (k : ReportKind) (s : State) (hs : P s) : P (s.orderFor k) := by
  cases k
  case done => exact h.order _ s hs
  all_goals exact hs

theorem grantLine (h : Kept P) (s : State) (hs : P s) : P s.grantLine := by
  unfold State.grantLine
  split
  · split
    · rename_i k hk
      exact h.handOver k _ (State.orderFor_sendable k _ (State.beforeHandOver_sendable k s (List.find?_some hk)))
        (h.orderFor k _ (h.beforeHandOver k s hs))
    · exact hs
  · exact hs

theorem endStartupIdle (h : Kept P) (s : State) (hs : P s) : P s.endStartupIdle := by
  unfold State.endStartupIdle
  dsimp only
  split
  · rename_i hh
    refine h.handOver .hello _ ?_ (h.link _ _ hs)
    simp [State.kindSendable, State.kindPending, hh]
  · exact h.grantLine _ (h.link _ _ hs)

/-- An owner that keeps the property. -/
def Owner (P : State → Prop) (act : Request → State → State × Answer) : Prop := ∀ r s, P s → P (act r s).1

theorem reply (h : Kept P) (r : Request) (a : Answer) (s : State) (hs : P s) : P (s.reply r a) :=
  h.sample { s with lkp := (s.reply r a).lkp } _ (h.link s _ hs)

theorem execute (h : Kept P) {accepts : Request → Bool} {act : Request → State → State × Answer}
    (ha : Owner P act) (s : State) (hs : P s) : P (s.execute accepts act) := by
  unfold State.execute
  split
  · split
    · exact h.settle _ (h.reply _ _ _ (ha _ _ (h.link _ _ (h.pairSpeed s hs))))
    · exact hs
  · exact hs

theorem checkLength (h : Kept P) {o : Machine.Owner} (ho : ∀ s p, P s → P (o s p).1) :
    Owner P (Machine.checkLength o) := by
  intro r s hs
  unfold Machine.checkLength
  split
  · exact ho s _ hs
  · exact h.evaluate s hs

theorem executeKind (h : Kept P) {o : Machine.Owner} (ho : ∀ s p, P s → P (o s p).1) (kind : Byte) (s : State)
    (hs : P s) : P (s.executeKind kind o) := h.execute (h.checkLength ho) s hs

theorem executeAfterStep (h : Kept P) {o : Machine.Owner} (ho : ∀ s p, P s → P (o s p).1) (kind : Byte) (s : State)
    (hs : P s) : P (s.executeAfterStep kind o) := by
  unfold State.executeAfterStep
  split
  · exact h.executeKind ho kind _ (h.catchUp s hs)
  · exact h.executeKind ho kind s hs

theorem ofLive {f : State → State} {s t : State} (hx : live f s = .next t) (hs : P s) (hf : P (f s)) : P t := by
  unfold live at hx
  cases hx
  split
  · exact hs
  · exact hf

section
variable (h : Kept P) (s : State) (p : List Byte) (hs : P s)
include h hs

theorem linkStatus : P (ownLinkStatus s p).1 := by
  rcases ownLinkStatus_effect s p with e | ⟨c, e⟩ <;> rw [e]
  · exact h.evaluate _ hs
  · exact h.evaluate _ (h.link _ _ hs)

theorem axisSet : P (ownAxisSet s p).1 := by
  rcases ownAxisSet_effect s p with e | ⟨a, h1, h2, _, h3, h4, h5, e⟩ <;> rw [e]
  · exact h.evaluate _ hs
  · exact h.evaluate _ (h.setAxis a s h1 h2 h3 h4 h5 hs)

theorem ownerPositionSet : P (ownPositionSet s p).1 := by
  rcases ownPositionSet_effect s p with e | ⟨q, h1, h2, e⟩ <;> rw [e]
  · exact h.evaluate _ hs
  · exact h.evaluate _ (h.positionSet q s h1 h2 hs)

theorem indexCheckSet : P (ownIndexCheckSet s p).1 := by
  rcases ownIndexCheckSet_effect s p with e | ⟨c, h1, h2, e⟩ <;> rw [e]
  · exact h.evaluate _ hs
  · exact h.evaluate _ (h.checks c s h1 h2 hs)

theorem ownerSeek : P (ownSeek s p).1 := by
  rcases ownSeek_effect s p with e | ⟨src, h1, h2, h3, e⟩ <;> rw [e]
  · exact h.evaluate _ hs
  · exact h.evaluate _ (h.seek src p s h1 h2 h3 hs)

theorem ownerSeekAbort : P (ownSeekAbort s p).1 := by
  rcases ownSeekAbort_effect s p with e | ⟨r, h1, e⟩ <;> rw [e]
  · exact h.evaluate _ hs
  · exact h.evaluate _ (h.seekAbort r _ s h1 hs)

theorem ownerRelease : P (ownRelease s p).1 := by
  rcases ownRelease_effect s p with e | ⟨r, h1, e⟩ | ⟨h1, e⟩ <;> rw [e]
  · exact h.evaluate _ hs
  · exact h.evaluate _ (h.seekAbort r _ s h1 hs)
  · exact h.evaluate _ (h.release s h1 hs)

theorem speedSet : P (ownSpeedSet s p).1 := by
  rcases ownSpeedSet_effect s p with e | ⟨d, m, l, _, _, _, e⟩ <;> rw [e]
  · exact h.evaluate _ hs
  · exact h.evaluate _ (h.setSpeed d m l s hs)

theorem windowAdd : P (ownWindowAdd s p).1 := by
  rcases ownWindowAdd_effect s p with e | ⟨t, w, h1, h2, h3, h4, h5, h6, h7, e⟩ <;> rw [e]
  · exact h.evaluate _ hs
  · exact h.evaluate _ (h.addWindow t w s h1 h2 h3 h4 h5 h6 h7 hs)

theorem windowRemove : P (ownWindowRemove s p).1 := by
  rcases ownWindowRemove_effect s p with e | ⟨t, i, h1, h2, e⟩ <;> rw [e]
  · exact h.evaluate _ hs
  · exact h.evaluate _ (h.removeWindow t i s h1 h2 hs)

theorem trackClear : P (ownTrackClear s p).1 := by
  rcases ownTrackClear_effect s p with e | ⟨t, h1, e⟩ <;> rw [e]
  · exact h.evaluate _ hs
  · exact h.evaluate _ (h.clearTrack t s h1 hs)

theorem trackParamSet : P (ownTrackParamSet s p).1 := by
  rcases ownTrackParamSet_effect s p with e | ⟨t, l, m, _, h1, e⟩ <;> rw [e]
  · exact h.evaluate _ hs
  · exact h.evaluate _ (h.setParams t l m s h1 hs)

theorem shadowRevert : P (ownShadowRevert s p).1 := by
  rcases ownShadowRevert_effect s p with e | ⟨h1, e⟩ <;> rw [e]
  · exact h.evaluate _ hs
  · exact h.evaluate _ (h.revertShadow s h1 hs)

theorem ownerCommitNow : P (ownCommitNow s p).1 := by
  rcases ownCommitNow_effect s p with e | ⟨h1, e⟩ <;> rw [e]
  · exact h.evaluate _ hs
  · exact h.evaluate _ (h.commitNow s h1 hs)

theorem commitAtPosition : P (ownCommitAtPosition s p).1 := by
  rcases ownCommitAtPosition_effect s p with e | ⟨hp, h1, h2, h3, e⟩ <;> rw [e]
  · exact h.evaluate _ hs
  · exact h.evaluate _ (h.startCommit _ s h1 h2 h3 (fun _ he => by cases he; exact hp) hs)

theorem commitAtIndex : P (ownCommitAtIndex s p).1 := by
  rcases ownCommitAtIndex_effect s p with e | ⟨h1, h2, h3, e⟩ <;> rw [e]
  · exact h.evaluate _ hs
  · exact h.evaluate _ (h.startCommit _ s h1 h2 h3 (fun _ he => by cases he) hs)

theorem commitCancel : P (ownCommitCancel s p).1 := by
  rcases ownCommitCancel_effect s p with e | ⟨c, h1, e⟩ <;> rw [e]
  · exact h.evaluate _ hs
  · exact h.evaluate _ (h.cancelCommit c s h1 hs)

theorem outputEnable : P (ownOutputEnable s p).1 := by
  rcases ownOutputEnable_effect s p with e | ⟨b, e⟩ <;> rw [e]
  · exact h.evaluate _ hs
  · exact h.setEnable b s hs

theorem trackModeSet : P (ownTrackModeSet s p).1 := by
  rcases ownTrackModeSet_effect s p with e | ⟨t, m, f, q, b, e⟩ <;> rw [e]
  · exact h.evaluate _ hs
  · exact h.setMode t m f q b s hs

theorem latchSet : P (ownLatchSet s p).1 := by
  rcases ownLatchSet_effect s p with e | ⟨n, k, m, u, f, _, e⟩ <;> rw [e]
  · exact h.evaluate _ hs
  · exact h.evaluate _ (h.configureLatch n k m u f s hs)

theorem latchArm : P (ownLatchArm s p).1 := by
  rcases ownLatchArm_effect s p with e | ⟨n, h1, e⟩ <;> rw [e]
  · exact h.evaluate _ hs
  · exact h.evaluate _ (h.armLatch n s h1 hs)

theorem captureRead : P (ownCaptureRead s p).1 := by
  rcases ownCaptureRead_effect s p with e | ⟨k, e⟩ <;> rw [e]
  · exact h.evaluate _ hs
  · exact h.evaluate _ (h.dropCaptures k s hs)

theorem captureFlush : P (ownCaptureFlush s p).1 := by
  rw [ownCaptureFlush_effect]
  have := h.dropCaptures s.lcu.queue.length s hs
  rw [List.drop_length] at this
  exact h.evaluate _ this

theorem reportSet : P (ownReportSet s p).1 := by
  rcases ownReportSet_effect s p with e | ⟨b, n, e⟩ <;> rw [e]
  · exact h.evaluate _ hs
  · exact h.evaluate _ (h.reports b n s hs)

theorem reportGrant : P (ownReportGrant s p).1 := by
  rcases ownReportGrant_effect s p with e | ⟨g, e⟩ <;> rw [e]
  · exact h.evaluate _ hs
  · exact h.evaluate _ (h.grant g s hs)

end

/-- Every command keeps a property that each single effect keeps. -/
theorem exec (h : Kept P) {c : Instr} {s t : State} (hx : Machine.exec c s = .next t) (hs : P s) : P t := by
  have ev : ∀ s, P s → P s.evaluate := h.evaluate
  cases c with
  | powerOnReset b => cases hx; exact h.reset _ _ _ s
  | pinReset b => cases hx; exact h.reset _ _ _ s
  | nrstLow => cases hx; exact h.pin _ _ (h.reset _ _ _ s)
  | requestReset b =>
    refine ofLive hx hs ?_
    split
    · exact h.reset _ _ _ s
    · exact hs
  | startupIdleEnd =>
    refine ofLive hx hs ?_
    split
    · exact h.endStartupIdle s hs
    · exact hs
  | settlingEnd =>
    refine ofLive hx hs ?_
    split
    · exact h.settle _ (h.settlingEnd s hs)
    · exact hs
  | latchSettlingEnd n =>
    refine ofLive hx hs ?_
    split
    · exact h.settle _ (h.latchSettlingEnd n s hs)
    · exact hs
  | step turn =>
    simp only [Machine.exec, execStep] at hx
    refine ofLive hx hs ?_
    split
    · rename_i d hd
      exact h.settle _ (h.takeStepTurn d turn s hd hs)
    · exact hs
  | quadError turn =>
    refine ofLive hx hs ?_
    split
    · rename_i hd
      exact h.settle _ (h.takeQuadTurn turn s hd hs)
    · exact hs
  | indexEvent turn =>
    refine ofLive hx hs ?_
    split
    · rename_i hd
      exact h.settle _ (h.indexEvent turn s hd hs)
    · exact hs
  | latchEdge n turn =>
    refine ofLive hx hs ?_
    split
    · refine h.settle _ ?_
      cases turn with
      | both back => exact h.lcuEdge _ _ _ (h.refEdge _ _ hs)
      | rft => exact h.refEdge _ _ hs
      | lcu back => exact h.lcuEdge _ _ _ hs
    · exact hs
  | stallExpiry =>
    refine ofLive hx hs ?_
    split
    · exact h.settle _ (h.noteMove _ (h.stall s hs))
    · exact hs
  | speedDecay =>
    refine ofLive hx hs ?_
    split
    · exact h.settle _ (h.noteMove _ (h.decay s hs))
    · exact hs
  | holdoffEnd n =>
    refine ofLive hx hs ?_
    split
    · exact h.settle _ (h.holdoffEnd n s hs)
    · exact hs
  | positionTimerExpiry back =>
    refine ofLive hx hs ?_
    split
    · rename_i hd
      exact h.settle _ (h.timer back s hd hs)
    · exact hs
  | sample lv => exact ofLive hx hs (h.takeSample lv s hs)
  | goodByte b => exact ofLive hx hs (h.link _ _ hs)
  | noise e => exact ofLive hx hs (h.link _ _ hs)
  | lengthError b => exact ofLive hx hs (h.link _ _ hs)
  | byteError e => exact ofLive hx hs (h.link _ _ hs)
  | frame b => exact ofLive hx hs (h.link _ _ hs)
  | gapExpiry =>
    simp only [Machine.exec, execGapExpiry] at hx
    exact ofLive hx hs (h.link _ _ hs)
  | rxdIdle =>
    simp only [Machine.exec, execRxdIdle] at hx
    exact ofLive hx hs (h.link _ _ hs)
  | transmitEnd =>
    simp only [Machine.exec, execTransmitEnd] at hx
    refine ofLive hx hs ?_
    split
    · exact h.grantLine _ (h.link _ _ hs)
    · exact hs
    · exact hs
    · exact hs
  | reportHandOver => exact ofLive hx hs (h.grantLine s hs)
  | badKind => exact ofLive hx hs (h.execute (fun _ s hs => h.evaluate s hs) s hs)
  | identify => exact ofLive hx hs (h.executeKind (fun s _ hs => ev s hs) _ s hs)
  | status => exact ofLive hx hs (h.executeAfterStep (fun s _ hs => ev s hs) _ s hs)
  | linkStatus => exact ofLive hx hs (h.executeKind h.linkStatus _ s hs)
  | reset => exact ofLive hx hs (h.executeKind (fun s _ hs => ev _ (h.link s _ hs)) _ s hs)
  | axisGet => exact ofLive hx hs (h.executeAfterStep (fun s _ hs => ev s hs) _ s hs)
  | axisSet => exact ofLive hx hs (h.executeAfterStep h.axisSet _ s hs)
  | positionSet => exact ofLive hx hs (h.executeKind h.ownerPositionSet _ s hs)
  | indexCheckSet => exact ofLive hx hs (h.executeKind h.indexCheckSet _ s hs)
  | seek => exact ofLive hx hs (h.executeKind h.ownerSeek _ s hs)
  | seekAbort => exact ofLive hx hs (h.executeKind h.ownerSeekAbort _ s hs)
  | release => exact ofLive hx hs (h.executeKind h.ownerRelease _ s hs)
  | syncStatus => exact ofLive hx hs (h.executeAfterStep (fun s _ hs => ev s hs) _ s hs)
  | speedSet => exact ofLive hx hs (h.executeKind h.speedSet _ s hs)
  | speedGet => exact ofLive hx hs (h.executeAfterStep (fun s _ hs => ev _ (h.free s _ hs)) _ s hs)
  | windowAdd => exact ofLive hx hs (h.executeKind h.windowAdd _ s hs)
  | windowRemove => exact ofLive hx hs (h.executeKind h.windowRemove _ s hs)
  | trackClear => exact ofLive hx hs (h.executeKind h.trackClear _ s hs)
  | trackList => exact ofLive hx hs (h.executeKind (fun s p hs => ownTrackList_effect s p ▸ ev s hs) _ s hs)
  | trackParamSet => exact ofLive hx hs (h.executeKind h.trackParamSet _ s hs)
  | shadowRevert => exact ofLive hx hs (h.executeKind h.shadowRevert _ s hs)
  | bankInfo => exact ofLive hx hs (h.executeKind (fun s _ hs => ev s hs) _ s hs)
  | commitNow => exact ofLive hx hs (h.execute (h.checkLength h.ownerCommitNow) s hs)
  | commitAtPosition => exact ofLive hx hs (h.execute (h.checkLength h.commitAtPosition) s hs)
  | commitAtIndex => exact ofLive hx hs (h.execute (h.checkLength h.commitAtIndex) s hs)
  | commitCancel => exact ofLive hx hs (h.executeKind h.commitCancel _ s hs)
  | outputEnable => exact ofLive hx hs (h.executeKind h.outputEnable _ s hs)
  | trackModeSet => exact ofLive hx hs (h.executeKind h.trackModeSet _ s hs)
  | trackStatus => exact ofLive hx hs (h.executeAfterStep (fun s p hs => ownTrackStatus_effect s p ▸ ev s hs) _ s hs)
  | latchSet => exact ofLive hx hs (h.executeKind h.latchSet _ s hs)
  | latchArm => exact ofLive hx hs (h.executeKind h.latchArm _ s hs)
  | captureRead => exact ofLive hx hs (h.executeKind h.captureRead _ s hs)
  | captureFlush => exact ofLive hx hs (h.executeKind h.captureFlush _ s hs)
  | reportSet => exact ofLive hx hs (h.executeKind h.reportSet _ s hs)
  | reportGrant => exact ofLive hx hs (h.executeKind h.reportGrant _ s hs)
  | reportStatus => exact ofLive hx hs (h.executeKind (fun s _ hs => ev _ (h.takeReports s hs)) _ s hs)

/-- Every step keeps a property that each single effect keeps. -/
theorem next (h : Kept P) {s t : State} (hx : Machine.step s = .next t) (hs : P s) : P t := by
  unfold Machine.step at hx
  split at hx
  · cases hx; exact hs
  · exact h.exec hx (h.queue s _ hs)

end Kept

end Sys2Proof.Machine
end

