-- ==== Sys2Proof/Laws/Rows.lean ====
section
/-! SUPPORT. The counter of the free values is read by no event of a sample, and each event that draining takes is taken
as its own row takes it. -/

namespace Sys2Proof.Machine

/-- The state with another counter of the free values. -/
def State.withFree (f : Nat) (s : State) : State := { s with free := f }

theorem State.bscArrive_withFree (f : Nat) (p : AbsPos) (s : State) :
    State.bscArrive p (s.withFree f) = State.withFree f (State.bscArrive p s) := by
  unfold State.bscArrive State.withFree; dsimp only; repeat' split
  all_goals rfl

theorem State.bscIndex_withFree (f : Nat) (s : State) :
    State.bscIndex (s.withFree f) = State.withFree f (State.bscIndex s) := by
  unfold State.bscIndex State.withFree; dsimp only; repeat' split
  all_goals rfl

theorem State.bscLeft_withFree (f : Nat) (s : State) :
    State.bscLeft (s.withFree f) = State.withFree f (State.bscLeft s) := rfl

theorem State.bscArriveKept_withFree (f : Nat) (p : Option AbsPos) (s : State) :
    State.bscArriveKept p (s.withFree f) = State.withFree f (State.bscArriveKept p s) := by
  unfold State.bscArriveKept; split
  · exact State.bscArrive_withFree _ _ _
  · rfl

theorem State.indexError_withFree (f : Nat) (k : FaultKind) (r : RefRecord) (s : State) :
    State.indexError k r (s.withFree f) = State.withFree f (State.indexError k r s) := by
  unfold State.indexError; dsimp only; rw [apply_ite (State.withFree f)]; rfl

theorem State.rftStep_withFree (f : Nat) (s : State) :
    State.rftStep (s.withFree f) = State.withFree f (State.rftStep s) := by
  unfold State.rftStep
  have e : (s.withFree f).rft.sync = s.rft.sync := rfl
  rw [e]
  cases h : s.rft.sync with
  | free => rfl
  | lost r => rfl
  | seeking r => dsimp only; rw [apply_ite (State.withFree f)]; rfl
  | locked r =>
    dsimp only
    cases h2 : r.index with
    | none => rfl
    | some ix => dsimp only; rw [apply_ite (State.withFree f), ← State.indexError_withFree]; rfl

theorem State.rftQuad_withFree (f : Nat) (s : State) :
    State.rftQuad (s.withFree f) = State.withFree f (State.rftQuad s) := by
  unfold State.rftQuad State.withFree; dsimp only; cases s.rft.sync <;> rfl

theorem State.indexLocked_withFree (f : Nat) (r : RefRecord) (s : State) :
    State.indexLocked r (s.withFree f) = State.withFree f (State.indexLocked r s) := by
  unfold State.indexLocked
  cases h2 : r.index with
  | none => rfl
  | some ix =>
    dsimp only
    have c1 : (s.withFree f).rft = s.rft := rfl
    have c2 : (s.withFree f).pcu = s.pcu := rfl
    rw [c1, c2]
    by_cases h1 : s.rft.inForce.check = false
    · rw [if_pos h1, if_pos h1]; rfl
    · rw [if_neg h1, if_neg h1]
      by_cases h2 : (signedDiff s.pcu.axis.cpr s.pcu.pos.angle ix.pos).natAbs ≤ s.rft.inForce.tolerance
      · rw [if_pos h2, if_pos h2]
        by_cases h3 : s.rft.inForce.policy = .correct ∧ signedDiff s.pcu.axis.cpr s.pcu.pos.angle ix.pos ≠ 0
        · simp only [if_pos h3]; rfl
        · simp only [if_neg h3]; rfl
      · rw [if_neg h2, if_neg h2, ← State.indexError_withFree]

theorem State.rftIndex_withFree (f : Nat) (s : State) :
    State.rftIndex (s.withFree f) = State.withFree f (State.rftIndex s) := by
  unfold State.rftIndex
  have e : (s.withFree f).rft.sync = s.rft.sync := rfl
  rw [e]
  cases h : s.rft.sync with
  | free => rfl
  | lost r => rfl
  | seeking r => dsimp only; rw [apply_ite (State.withFree f)]; rfl
  | locked r =>
    dsimp only
    rw [← State.indexLocked_withFree]; rfl

theorem State.applyStep_withFree (f : Nat) (d : Dir) (s : State) :
    State.applyStep d (s.withFree f) = State.withFree f (State.applyStep d s) := by
  unfold State.applyStep State.stepSpeed
  cases h : s.sample.ahead
  · have : (s.withFree f).sample.ahead = false := h
    simp only [this]; rfl
  · have : (s.withFree f).sample.ahead = true := h
    simp only [this]; rfl

theorem State.handStep_withFree (f : Nat) (t : ArrivalTurn) (s : State) :
    State.handStep t (s.withFree f) = State.withFree f (State.handStep t s) := by
  unfold State.handStep
  have e : (s.withFree f).pcu = s.pcu := rfl
  cases t <;> dsimp only
  · rw [e, State.bscArrive_withFree, State.rftStep_withFree, State.bscLeft_withFree]
  · rw [e, State.rftStep_withFree, State.bscArrive_withFree, State.bscLeft_withFree]
  · rw [e, State.rftStep_withFree, State.bscLeft_withFree, State.bscArrive_withFree]
  · rw [e, State.rftStep_withFree, State.bscLeft_withFree, State.bscArrive_withFree, apply_ite (State.withFree f)]; rfl

theorem State.takeStep_withFree (f : Nat) (d : Dir) (t : ArrivalTurn) (s : State) :
    State.takeStep d t (s.withFree f) = State.withFree f (State.takeStep d t s) := by
  unfold State.takeStep; rw [State.applyStep_withFree, State.handStep_withFree]

theorem State.countQuad_withFree (f : Nat) (s : State) :
    State.countQuad (s.withFree f) = State.withFree f (State.countQuad s) := by
  unfold State.countQuad; rw [apply_ite (State.withFree f)]; rfl

theorem State.quadWithIndex_withFree (f : Nat) (s : State) :
    State.quadWithIndex (s.withFree f) = State.withFree f (State.quadWithIndex s) := by
  unfold State.quadWithIndex; rw [State.rftQuad_withFree, apply_ite (State.withFree f), ← State.bscIndex_withFree]; rfl

theorem State.takeQuadError_withFree (f : Nat) (t : LossTurn) (s : State) :
    State.takeQuadError t (s.withFree f) = State.withFree f (State.takeQuadError t s) := by
  unfold State.takeQuadError
  rw [State.countQuad_withFree]
  cases t <;> dsimp only
  · rw [← State.bscLeft_withFree, ← State.quadWithIndex_withFree]; rfl
  · rw [← State.bscLeft_withFree, ← State.rftQuad_withFree]; rfl

theorem State.takeIndexEvent_withFree (f : Nat) (t : LossTurn) (s : State) :
    State.takeIndexEvent t (s.withFree f) = State.withFree f (State.takeIndexEvent t s) := by
  unfold State.takeIndexEvent
  have e : ({ State.withFree f s with sample := { (s.withFree f).sample with z := none, arrival := none } } :
      State) = State.withFree f { s with sample := { s.sample with z := none, arrival := none } } := rfl
  have e2 : (s.withFree f).sample.arrival = s.sample.arrival := rfl
  dsimp only
  rw [e, e2, State.rftIndex_withFree]
  cases t <;> dsimp only
  · rw [State.bscIndex_withFree, State.bscArriveKept_withFree, State.bscLeft_withFree]
  · rw [State.bscLeft_withFree, State.bscIndex_withFree, State.bscArriveKept_withFree]

theorem State.takeRefEdge_withFree (f : Nat) (n : Fin 4) (s : State) :
    State.takeRefEdge n (s.withFree f) = State.withFree f (State.takeRefEdge n s) := by
  unfold State.takeRefEdge
  have e : (s.withFree f).rft.sync = s.rft.sync := rfl
  dsimp only
  rw [e]
  cases h : s.rft.sync with
  | free => rfl
  | lost r => rfl
  | seeking r => dsimp only; rw [apply_ite (State.withFree f)]; rfl
  | locked r => rfl

theorem State.takeLcuEdge_withFree (f : Nat) (n : Fin 4) (b : Nat) (s : State) :
    State.takeLcuEdge n b (s.withFree f) = State.withFree f (State.takeLcuEdge n b s) := by
  unfold State.takeLcuEdge
  have e : (s.withFree f).sample = s.sample := rfl
  rw [e]
  cases s.sample.edges.get n <;> rfl

theorem State.settle_withFree (f : Nat) (s : State) :
    State.settle (s.withFree f) = State.withFree f (State.settle s) := by
  unfold State.settle; rw [apply_ite (State.withFree f)]; rfl
/-- A sample is settled once. -/
theorem State.settle_settle (s : State) : s.settle.settle = s.settle := by
  unfold State.settle
  split
  · rw [if_neg]; simp [State.endSample]
  · rfl
/-- While an event of the sample is due, the sample is not settled. -/
theorem State.settle_of_anyDue (s : State) (h : s.anyDue = true) : s.settle = s := by
  unfold State.settle; simp [h]
/-- An event that is next is due. -/
theorem State.anyDue_of_next (s : State) (e : FieldEvent) (h : s.nextEvent = some e) : s.anyDue = true := by
  by_contra hc
  have hc : s.anyDue = false := by simpa using hc
  unfold State.anyDue at hc
  have hc := by simpa only [Bool.or_eq_false_iff] using hc
  obtain ⟨⟨⟨⟨⟨⟨⟨⟨⟨⟨⟨⟨⟨⟨⟨⟨⟨⟨⟨a0, a1⟩, a2⟩, a3⟩, a4⟩, a5⟩, a6⟩, a7⟩, a8⟩, a9⟩, a10⟩, a11⟩, a12⟩, a13⟩, a14⟩, a15⟩,
      a16⟩, a17⟩, a18⟩, a19⟩ := hc
  have b9 : s.stepDue = none := by simpa using a9
  have b12 : s.edgeDue = none := by simpa using a12
  have hl : s.nextLatchEvent = none := by
    unfold State.nextLatchEvent firstLatch
    rw [b12]
    cases hf : (Config.refEdge s.free).filter s.refDue with
    | none => simp [a13, a14, a15, a16]
    | some m =>
      have := (Option.filter_eq_some_iff.1 hf).2
      exfalso
      fin_cases m <;> simp_all
  unfold State.nextEvent State.nextSpeedEvent State.nextFieldEvent firstLatch at h
  simp [a0, a1, a2, a3, a4, a5, a6, a7, a8, b9, a10, a11, hl, a17, a18, a19] at h
/-- Draining takes each event of a sample as the row of that event takes it, but for the counter of the free values. -/
theorem State.takeEvent_row (s : State) (e : FieldEvent) (hn : s.nrstLow = false) (he : s.nextEvent = some e) (f :
    Nat) :
    ∃ c, takesEvent c ∧ exec c (s.withFree f) = .next (State.withFree f (s.takeEvent e)).settle := by
  have hs : ∀ e, s.nextSpeedEvent = some e → ∃ c,
      takesEvent c ∧ exec c (s.withFree f) = .next (State.withFree f (s.takeEvent e)).settle := by
    intro e he
    have step : ∀ d, s.stepDue = some d → ∃ c,
        takesEvent c ∧ exec c (s.withFree f) = .next (State.withFree f (s.takeEvent .step)).settle := by
      intro d hd
      refine ⟨.step (.take s.freeArrivalTurn), trivial, ?_⟩
      show execStep _ _ = _
      unfold execStep live
      have h1 : (s.withFree f).stepDue = some d := hd
      have h2 : (s.withFree f).nrstLow = false := hn
      rw [h2]; simp only [h1]
      unfold State.takeEvent; simp only [hd]
      have : ({ s with free := s.free + 1 } : State) = State.withFree (s.free+1) s := rfl
      simp only [this, State.takeStepTurn]
      rw [State.takeStep_withFree, State.takeStep_withFree]; rfl
    have stall : s.stallDue = true → ∃ c,
        takesEvent c ∧ exec c (s.withFree f) = .next (State.withFree f (s.takeEvent .stall)).settle := by
      intro hd
      refine ⟨.stallExpiry, trivial, ?_⟩
      show execStallExpiry _ = _
      unfold execStallExpiry live
      have h1 : (s.withFree f).stallDue = true := hd
      have h2 : (s.withFree f).nrstLow = false := hn
      simp only [h2, h1, Bool.false_eq_true, if_false, if_true]; rfl
    unfold State.nextSpeedEvent at he
    split at he
    · rename_i d hd hst
      split at he
      · cases he; exact stall hst
      · cases he; exact step d hd
    · rename_i d hd _; cases he; exact step d hd
    · rename_i hst; cases he; exact stall hst
    · split at he
      · rename_i hd; cases he
        refine ⟨.speedDecay, trivial, ?_⟩
        show execSpeedDecay _ = _
        unfold execSpeedDecay live
        have h1 : (s.withFree f).decayDue = true := hd
        have h2 : (s.withFree f).nrstLow = false := hn
        simp only [h2, h1, Bool.false_eq_true, if_false, if_true]; rfl
      · cases he
  have hn' : (s.withFree f).nrstLow = false := hn
  unfold State.nextEvent at he
  split at he
  · rename_i h; cases he
    refine ⟨.settlingEnd, trivial, ?_⟩
    show execSettlingEnd _ = _
    unfold execSettlingEnd live
    have h1 : (s.withFree f).settlingDue = true := h
    simp only [hn', h1, Bool.false_eq_true, if_false, if_true]; rfl
  · split at he
    · rename_i n h; cases he
      refine ⟨.latchSettlingEnd n, trivial, ?_⟩
      show execLatchSettlingEnd _ _ = _
      unfold execLatchSettlingEnd live
      have h1 : (s.withFree f).latchSettlingDue n = true := firstLatch_some h
      simp only [hn', h1, Bool.false_eq_true, if_false, if_true]; rfl
    · split at he
      · rename_i n h; cases he
        refine ⟨.holdoffEnd n, trivial, ?_⟩
        show execHoldoffEnd _ _ = _
        unfold execHoldoffEnd live
        have h1 : (s.withFree f).holdoffDue n = true := firstLatch_some h
        simp only [hn', h1, Bool.false_eq_true, if_false, if_true]; rfl
      · split at he
        · rename_i e' h; cases he; exact hs _ h
        · split at he
          · rename_i e' hne
            cases he
            unfold State.nextFieldEvent at hne
            dsimp only at hne
            have enc : ∀ e1, (if s.quadDue then some FieldEvent.quadError
                else if s.indexDue then some .indexEvent else none) = some e1 →
                ∃ c, takesEvent c ∧ exec c (s.withFree f) = .next (State.withFree f (s.takeEvent e1)).settle := by
              intro e1 h1
              split at h1
              · rename_i hq; cases h1
                refine ⟨.quadError (.take s.freeLossTurn), trivial, ?_⟩
                show execQuadError _ _ = _
                unfold execQuadError live
                have h1 : (s.withFree f).quadDue = true := hq
                simp only [hn', h1, Bool.false_eq_true, if_false, if_true]
                simp only [State.takeQuadTurn, State.takeEvent]
                rw [State.takeQuadError_withFree,
                    show ({ s with free := s.free + 1 } : State) = State.withFree (s.free+1) s from rfl, State.takeQuadError_withFree]; rfl
              · split at h1
                · rename_i hi; cases h1
                  refine ⟨.indexEvent s.freeLossTurn, trivial, ?_⟩
                  show execIndexEvent _ _ = _
                  unfold execIndexEvent live
                  have h1 : (s.withFree f).indexDue = true := hi
                  simp only [hn', h1, Bool.false_eq_true, if_false, if_true]
                  simp only [State.takeEvent]
                  rw [State.takeIndexEvent_withFree,
                      show ({ s with free := s.free + 1 } : State) = State.withFree (s.free+1) s from rfl, State.takeIndexEvent_withFree]; rfl
                · cases h1
            have latch : ∀ e1, s.nextLatchEvent = some e1 →
                ∃ c, takesEvent c ∧ exec c (s.withFree f) = .next (State.withFree f (s.takeEvent e1)).settle := by
              intro e1 h1
              rcases State.nextLatchEvent_some h1 with ⟨m, rfl, hm⟩ | ⟨n, rfl, hn2⟩
              · refine ⟨.latchEdge m .rft, trivial, ?_⟩
                show execLatchEdge _ _ _ = _
                unfold execLatchEdge live
                have h1 : (s.withFree f).latchTurn m .rft = true := hm
                simp only [hn', h1, Bool.false_eq_true, if_false, if_true]
                simp only [State.takeEvent, State.takeLatchEdge]
                rw [State.takeRefEdge_withFree,
                    show ({ s with free := s.free + 1 } : State) = State.withFree (s.free+1) s from rfl, State.takeRefEdge_withFree]; rfl
              · refine ⟨.latchEdge n (.lcu s.freeView), trivial, ?_⟩
                show execLatchEdge _ _ _ = _
                unfold execLatchEdge live
                have h1 : (s.withFree f).latchTurn n (.lcu s.freeView) = true := by
                  show decide (s.edgeDue = some n) = true
                  simp [hn2]
                simp only [hn', h1, Bool.false_eq_true, if_false, if_true]
                simp only [State.takeEvent, State.takeLatchEdge]
                rw [State.takeLcuEdge_withFree,
                    show ({ s with free := s.free + 1 } : State) = State.withFree (s.free+1) s from rfl, State.takeLcuEdge_withFree]; rfl
            split at hne
            · rename_i e1 n h1 h2
              split at hne
              · cases hne; exact latch _ h2
              · cases hne; exact enc _ h1
            · rename_i e1 h1 _
              cases hne; exact enc _ h1
            · exact latch _ hne
          · split at he
            · rename_i ht; cases he
              refine ⟨.positionTimerExpiry s.freeView, trivial, ?_⟩
              show execPositionTimerExpiry _ _ = _
              unfold execPositionTimerExpiry live
              have h1 : (s.withFree f).timerDue = true := ht
              simp only [hn', h1, Bool.false_eq_true, if_false, if_true]; rfl
            · cases he

end Sys2Proof.Machine
end

