-- ==== Sys2Proof/WellFormed.lean ====
section
/-! DEFINITION. When a command names the row its operands belong to. Most operands are typed so that nothing is left to
check; a byte event must be the one its row describes. -/

namespace Sys2Proof

/-- Whether the operands agree with the row's own description: NOISE is any byte event but a good 0xB7 (R164), a
LENGTH_ERROR is a LEN above 240 (R165). The receiver's state, which also decides the row, is the machine's. -/
def Instr.wellFormed : Instr → Bool
  | .noise e => e != ByteEvent.good 0xB7
  | .lengthError b => decide (240 < b.toNat)
  | .powerOnReset _ | .pinReset _ | .requestReset _ | .startupIdleEnd | .settlingEnd | .latchSettlingEnd _
  | .step _ | .quadError _ | .indexEvent _ | .latchEdge _ _ | .stallExpiry | .speedDecay | .holdoffEnd _
  | .positionTimerExpiry _ | .byteError _ | .gapExpiry | .frame _ | .transmitEnd | .reportHandOver
  | .badKind | .identify | .status | .linkStatus | .reset | .axisGet | .axisSet | .positionSet | .indexCheckSet
  | .seek | .seekAbort | .release | .syncStatus | .speedSet | .speedGet | .windowAdd | .windowRemove | .trackClear
  | .trackList | .trackParamSet | .shadowRevert | .bankInfo | .commitNow | .commitAtPosition | .commitAtIndex
  | .commitCancel | .outputEnable | .trackModeSet | .trackStatus | .latchSet | .latchArm | .captureRead
  | .captureFlush | .reportSet | .reportGrant | .reportStatus | .sample _ | .goodByte _ | .nrstLow | .rxdIdle => true

end Sys2Proof
end

