-- ==== Sys2Proof/Tests/Slice0.lean ====
section
/-! SUPPORT. The model's own tests: well-formedness, frames and worked examples of the spec, one step on small states,
and for each statement a state and operands that meet its hypotheses, clause by clause at the edges of their ranges. -/

namespace Sys2Proof.Tests

open Sys2Proof Sys2Proof.Machine

/-! ## Small states -/

/-- The part with the link up: HELLO sent, TXD free, the receiver taking bytes. -/
def up : State :=
  { State.reset with
    rsc := { State.reset.rsc with hello := none }, lkp := { State.reset.lkp with tx := .free, rxLine := .ready } }

/-- A request with SEQ 1. -/
def req (kind : Byte) (p : List Byte) : Request := { seq := 1, kind := kind, payload := p, crc := 0 }

/-- The part with one request in the inbound queue. -/
def offered (s : State) (kind : Byte) (p : List Byte) : State := { s with lkp := { s.lkp with inbound := [req kind p] } }

/-- A state in which the LKP executes a request of this kind, and in which `P` holds of the state and the payload. -/
def Meets (kind : Byte) (P : State → List Byte → Prop) : Prop := ∃ s r rest, State.offers s kind r rest ∧ P s r.payload

theorem meets {kind : Byte} {P : State → List Byte → Prop} (s : State) (p : List Byte)
    (h : s.nrstLow = false ∧ s.lkp.replies.length ≤ 4 ∧ s.lkp.resetPending = false
      ∧ (s.sample.moved = true → s.speedDue = false) ∧ requestLength? kind = some p.length) (hP : P (offered s kind p) p) : Meets kind P :=
  ⟨offered s kind p, req kind p, [], ⟨h.1, rfl, h.2.1, h.2.2.1, h.2.2.2.1, rfl, h.2.2.2.2⟩, hP⟩

/-- The part in an open sample that has found `x`. -/
def found (x : Sample) : State := { up with sample := { x with inSample := true } }

/-- The part in another sync state. -/
def inSync (x : Sync) (s : State) : State := { s with rft := { s.rft with sync := x } }

/-- The part with a pending commit. -/
def committing (q : CommitPolicy) (s : State) : State :=
  { s with bsc := { s.bsc with commit := some { ticket := 9, policy := q } }, rsc := { s.rsc with inFlight := 1 } }

/-- The part at a position. -/
def atPos (rev : Word32) (angle : Nat) (s : State) : State :=
  { s with pcu := { s.pcu with pos := { rev := rev, angle := angle } } }

/-- A seek record. -/
def seekRec : SeekRecord :=
  { ticket := 1, source := .index, edgeCode := 0, refValue := 100, travelLimit := 4, start := ⟨0, 0⟩ }

/-- A seek record with latch 2 and both edges. -/
def latchRec : SeekRecord := { seekRec with source := .latch 2, edgeCode := 3 }

/-- A reference record. -/
def refRec : RefRecord :=
  { source := .index, refValue := 100, lockedAt := 5, index := some ⟨100, ⟨0, 100⟩⟩, consec := 0, lastD := none }

/-- Index checking in force and configured, with a limit. -/
def checking (limit : Nat) (policy : IndexPolicy) (s : State) : State :=
  { s with rft := { s.rft with
      configured := { check := true, tolerance := 4, limit := limit, policy := policy }
      inForce := { check := true, tolerance := 4, limit := limit, policy := policy } } }

/-- Changes of the pair: one level (a step forward with the reset configuration), and both. -/
def oneLevel : PairChange := { old := ⟨false, false⟩, new := ⟨true, false⟩ }
def bothLevels : PairChange := { old := ⟨false, false⟩, new := ⟨true, true⟩ }

/-- The samples that found a step, an error, a rise of Z, edges of latches, and a rise of latch 2 alone. -/
def stepping : State := found { Sample.idle with ab := some (.step .fwd) }
def erring : State := found { Sample.idle with ab := some .error }
def indexing : State := found { Sample.idle with z := some true }
def changed (e : Quad (Option EdgeKind)) : State := found { Sample.idle with edges := e, refEdges := e }
def edging : State := changed (Quad.set (Quad.all none) 2 (some .rise))

/-- Latch 2 replaced. -/
def withLatch (l : Latch) (s : State) : State := { s with lcu := { s.lcu with latches := s.lcu.latches.set 2 l } }

/-- A latch that captures both edges. -/
def armed : Latch := { Latch.reset with edge := .both, arm := .armed, settling := none }

/-- The TSU moving forward: two entries, a span of 1000, the newest `age` samples old. -/
def moving (age : Word32) (s : State) : State :=
  { s with tsu := { s.tsu with
      timebase := 1000 + age, ticking := true, history := [⟨1000, .fwd⟩, ⟨0, .fwd⟩], lastDir := some .fwd
      estimate := 10000, presented := 10000, stalled := false } }

/-- The TSU moving forward, its stall time of 1 ms over exactly now. -/
def expiring (s : State) : State := { moving 10000 s with tsu := { (moving 10000 s).tsu with stallMs := 1 } }

/-- A window, and a bank whose track 7 holds it. -/
def win : Window := { on := 8, off := 20, dir := .both }
def bankWith (ws : List Window) : Bank :=
  { tracks := Oct.set (Oct.all { windows := [], leadUs := 0, hysteresis := 0 }) 7
      { windows := ws, leadUs := 0, hysteresis := 0 }
    pool := ws.length }

/-- SHADOW replaced. -/
def withShadow (b : Bank) (s : State) : State := { s with cts := { s.cts with shadow := b } }

/-- Rises of latches 0 and 2 in a seek of latch 2, both latches armed. -/
def twoEdges : State :=
  let both := Quad.set (Quad.set (Quad.all none) 2 (some .rise)) 0 (some .rise)
  let s := inSync (.seeking latchRec) (withLatch armed (changed both))
  { s with lcu := { s.lcu with latches := s.lcu.latches.set 0 armed } }

/-- A capture record. -/
def record : Capture :=
  { latch := 2, edge := .rise, pos := ⟨0, 0⟩, time := 0, referenced := false, gap := false, lostBefore := 0
    generation := 0 }

/-- A completion entry. -/
def completion : Completion :=
  { ticket := 1, op := .seek, outcome := .aborted, time := 0, pos := none, generation := none }

/-- The receiver in a state. -/
def receiving (rx : Rx) (s : State) : State := { s with lkp := { s.lkp with rx := rx, gapTimer := true } }

/-- TXD in a state. -/
def withTx (tx : Tx) (s : State) : State := { s with lkp := { s.lkp with tx := tx } }

/-- A reply frame. -/
def aReply (ok : Bool) : Reply := { frame := [0xB7], resetOk := ok }

/-- Whether a step answers a next state of which a test holds. -/
def nextHas (o : Out) (P : State → Bool) : Bool :=
  match o with
  | .next t => P t
  | .fault _ => false
  | .refused _ => false

/-! ## Well-formed commands -/

theorem test_wellformed_noise : (Instr.noise (.good 0xB7)).wellFormed = false
    ∧ (Instr.noise (.good 0xB6)).wellFormed = true ∧ (Instr.noise .lineBreak).wellFormed = true := by decide

theorem test_wellformed_lengthError :
    (Instr.lengthError 240).wellFormed = false ∧ (Instr.lengthError 241).wellFormed = true := by decide

/-! ## Decoding -/

/-- The table gives no bits, so a word spells no command and leaves the queue as it is. -/
theorem test_noWordSpellsACommand : decodeTableWord 16 0x1234 = none
    ∧ (State.reset.withFetchWord 16 0x1234).pending = [] := by decide

/-! ## Frames and fields (spec 10) -/

theorem test_crcCheckValue : crc [0x31, 0x32, 0x33, 0x34, 0x35, 0x36, 0x37, 0x38, 0x39] = 0x29B1 := by decide +kernel

theorem test_identifyFrame : mkFrame 1 1 [] = [0xB7, 0x00, 0x01, 0x01, 0xEF, 0x8C] := by decide +kernel

theorem test_fields : word32 0x12345678 = [0x78, 0x56, 0x34, 0x12] ∧ s32 (-2) = [0xFE, 0xFF, 0xFF, 0xFF]
    ∧ s16 (-2) = [0xFE, 0xFF] ∧ u32At [0x78, 0x56, 0x34, 0x12] 0 = 0x12345678
    ∧ u16At [0, 0x34, 0x12] 1 = 0x1234 ∧ flagByte [true, false, true] = 5 := by decide

theorem test_referenceRecordBytes :
    refRec.bytes = [0, 1, 0, 0, 100, 0, 100, 0, 0, 0, 5, 0, 0, 0, 0, 0, 0, 0, 100, 0] := by decide

/-! ## The arithmetic of positions (spec 01, 02) -/

theorem test_signedDiff : signedDiff 8 3 7 = -4 ∧ signedDiff 8 7 3 = -4 ∧ signedDiff 8 6 3 = 3
    ∧ signedDiff 9 4 0 = 4 ∧ signedDiff 9 5 0 = -4 := by decide

theorem test_correctAcrossTheWrap : AbsPos.correct 8 (-2) ⟨0, 7⟩ = ⟨1, 1⟩ ∧ AbsPos.correct 8 2 ⟨0, 1⟩ = ⟨-1, 7⟩ := by
  decide

theorem test_circDist : circDist 4096 4090 6 = 12 ∧ circDist 4096 0 2048 = 2048 := by decide

/-! ## The machine -/

/-- A queue of one command, and the empty queue. -/
theorem test_witness_StepRunsTheCommandInFront :
    ({ State.reset with pending := [Instr.nrstLow] } : State).pending = Instr.nrstLow :: [] ∧ State.reset.pending = [] := by
  decide

/-! ## Resets and the start of the link -/

/-- Each kind of reset, and NRST low; the REQUEST reset while the OK is sent and after it; the others with NRST low. -/
theorem test_witness_ResetsClearTheBlocksOfTheField : up.clearedBy .nrstLow ∧ up.clearedBy (.powerOnReset 3) :=
  ⟨Or.inl rfl, Or.inr ⟨.powerOn, 0, 3, Or.inl ⟨rfl, rfl, rfl⟩⟩⟩

theorem test_witness_ResetsClearTheReportsAndTheLink : up.resetsBy (.powerOnReset 3) .powerOn 0 3
    ∧ up.resetsBy (.pinReset 0) .pin 1 0
    ∧ (withTx (.sending (aReply true)) up).resetsBy (.requestReset 1) .request 1 1
    ∧ (withTx .resetDue up).resetsBy (.requestReset 2) .request 1 2
    ∧ ({ up with nrstLow := true } : State).resetsBy (.powerOnReset 0) .powerOn 0 0
    ∧ ({ up with nrstLow := true } : State).resetsBy (.pinReset 3) .pin 1 3 :=
  ⟨Or.inl ⟨rfl, rfl, rfl⟩, Or.inr (Or.inl ⟨rfl, rfl, rfl⟩), Or.inr (Or.inr ⟨rfl, rfl, rfl, rfl, rfl⟩),
    Or.inr (Or.inr ⟨rfl, rfl, rfl, rfl, rfl⟩), Or.inl ⟨rfl, rfl, rfl⟩, Or.inr (Or.inl ⟨rfl, rfl, rfl⟩)⟩

theorem test_witness_NrstLowHoldsThePartInReset : ({ up with nrstLow := true } : State).nrstLow = true
    ∧ (∀ b, Instr.identify ≠ .powerOnReset b) ∧ (∀ b, Instr.identify ≠ .pinReset b) ∧ Instr.identify ≠ .nrstLow := by
  decide

theorem test_witness_StartupIdleEndSendsHello : State.reset.nrstLow = false ∧ State.reset.lkp.tx = .startupIdle
    ∧ State.reset.rsc.hello = some .powerOn := by decide

theorem test_witness_ResetRequestMarksTheReset : Meets 0x04 (fun _ _ => True)
    ∧ ({ up with lkp := { up.lkp with resetPending := true } } : State).lkp.resetPending = true
    ∧ (requestKind .identify).isSome = true := ⟨meets up [] (by decide) trivial, by decide⟩

/-! ## Filters, samples and decoding -/

/-- Counts at 0, between the rails and at the length, and above a shortened length. -/
theorem test_witness_InputFiltersCountTheSamples : (⟨0, false⟩ : Filter).count ≤ 0 ∧ (⟨2, false⟩ : Filter).count ≤ 3
    ∧ (⟨3, true⟩ : Filter).count ≤ 3 ∧ 3 < (⟨4, false⟩ : Filter).count ∧ up.nrstLow = false := by decide

/-- A sample that found a step and a rise of Z. -/
def steppingIndexed : State := found { Sample.idle with ab := some (.step .fwd), z := some true }

/-- No sample open and one open; settling and settled, with references and without; the changes that a sample may find. -/
theorem test_witness_SampleReadsEveryInput : up.nrstLow = false ∧ up.sample.inSample = false
    ∧ stepping.nrstLow = false ∧ stepping.sample.inSample = true
    ∧ up.qdu.settling = some 4
    ∧ ({ up with qdu := { up.qdu with settling := none, ref := some ⟨false, false⟩, zRef := some false } } : State).qdu
      = { up.qdu with settling := none, ref := some ⟨false, false⟩, zRef := some false }
    ∧ oneLevel.event up.pcu.axis = some (.step .fwd) ∧ bothLevels.event up.pcu.axis = some .error := by decide

/-- A step that the TSU alone has taken. -/
def steppingAhead : State :=
  { stepping with
    tsu := stepping.tsu.step .fwd, sample := { stepping.sample with ahead := true, moved := true } }

/-- An open sample with and without events; a step alone, with a stall of 1 ms that expires at its sample, that stall
alone, and a decay alone; a request in a sample that has moved, with its step left. -/
theorem test_witness_ASampleEndsWithOneEvaluation : (found Sample.idle).sample.inSample = true
    ∧ (found Sample.idle).anyDue = false ∧ up.sample.inSample = false ∧ stepping.anyDue = true
    ∧ stepping.sample.inSample = true ∧ stepping.nrstLow = false
    ∧ (up.stepDue = none ∧ up.stallDue = false ∧ up.decayDue = false)
    ∧ (stepping.stepDue = some .fwd ∧ stepping.stallDue = false ∧ stepping.tsu.stallMs ≠ 0
      ∧ stepping.sample.ahead = false)
    ∧ (let s := expiring stepping
      s.nrstLow = false ∧ s.stepDue = some .fwd ∧ s.stallDue = true ∧ s.tsu.stallMs ≠ 0 ∧ s.sample.ahead = false)
    ∧ (let s := expiring (found Sample.idle)
      s.nrstLow = false ∧ s.stepDue = none ∧ s.stallDue = true)
    ∧ (let s := moving 1001 (found Sample.idle)
      s.nrstLow = false ∧ s.stallDue = false ∧ s.decayDue = true)
    ∧ ((requestKind .outputEnable).isSome = true ∧ (offered steppingAhead 0x28 [1]).sample.moved = true
      ∧ (offered steppingAhead 0x28 [1]).speedDue = true) := by decide

/-- Settling over, a holdoff of 10 microseconds that is over exactly now, and an interval of 1 ms over exactly now. -/
theorem test_witness_SettlingsHoldoffsAndThePositionTimerEnd :
    ({ found Sample.idle with qdu := { Qdu.reset with settling := some 0 } } : State).qdu.settling = some 0
    ∧ ((withLatch { armed with settling := some 0 } (found Sample.idle)).lcu.latches.get 2).settling = some 0
    ∧ (let s := withLatch { armed with holdoff := some 1000, holdoffUs := 10 } (moving 100 (found Sample.idle))
      s.nrstLow = false ∧ s.sample.inSample = true ∧ (s.lcu.latches.get 2).holdoff = some 1000
        ∧ (s.lcu.latches.get 2).holdoffUs * 10 ≤ (s.tsu.timebase - 1000).toNat)
    ∧ (let s : State := { found Sample.idle with
        tsu := { Tsu.reset with timebase := 10000 }
        rsc := { up.rsc with timer := some 0, intervalMs := 1, enable := { up.rsc.enable with position := true } } }
      s.nrstLow = false ∧ s.sample.inSample = true ∧ s.rsc.timer = some 0 ∧ s.rsc.enable.position = true
        ∧ s.rsc.intervalMs ≠ 0 ∧ s.rsc.intervalMs * 10000 ≤ (s.tsu.timebase - 0).toNat ∧ s.stepDue = none
        ∧ s.stallDue = false ∧ s.decayDue = false) := by decide

theorem test_witness_PairChangesAndIndexEdgesDecodeByTheTables : up.pcu.axis.invert = false
    ∧ up.pcu.axis.countMode = .x4 ∧ stepping.sample.inSample = true ∧ stepping.sample.ab = some (.step .fwd)
    ∧ erring.sample.ab = some .error ∧ indexing.sample.ab = none ∧ oneLevel.stepDir up.pcu.axis = some .fwd
    ∧ bothLevels.isError = true
    ∧ oneLevel.stepDir { up.pcu.axis with countMode := .x1, invert := true } = some .rev
    ∧ PairChange.stepDir { up.pcu.axis with countMode := .x1 } { old := ⟨true, false⟩, new := ⟨true, true⟩ } = none
    ∧ indexing.sample.inSample = true ∧ indexing.sample.z = some true ∧ indexing.stepDue = none
    ∧ steppingIndexed.stepDue = some .fwd := by decide

/-! ## Steps -/

/-- Angles 0, CPR - 1 and one between; FREE and LOST without a commit. -/
theorem test_witness_StepMovesThePositionByOneCount : (8 ≤ 8 ∧ (⟨0, 7⟩ : AbsPos).angle + 1 = 8
    ∧ (⟨0, 0⟩ : AbsPos).angle + 1 < 8 ∧ 0 < (⟨0, 7⟩ : AbsPos).angle ∧ (⟨0, 0⟩ : AbsPos).angle = 0)
    ∧ stepping.nrstLow = false ∧ stepping.stepDue = some .fwd ∧ stepping.pcu.axis.cpr = 4096
    ∧ stepping.pcu.pos = ⟨0, 0⟩ ∧ stepping.rft.sync = .free ∧ (inSync (.lost refRec) stepping).rft.sync = .lost refRec
    ∧ stepping.bsc.commit = none ∧ stepping.sample.ahead = false ∧ steppingAhead.sample.ahead = true
    ∧ steppingAhead.stepDue = some .fwd := by decide

/-- A second step, which makes k 2: at the overspeed limit and over it, leaving OVERSPEED at its low threshold and not
above it, with no limit, and with the presented speed unchanged. -/
theorem test_witness_StepFormsTheSpeed :
    (let t (limit : Nat) (fast : Bool) (v : Int) : Tsu := { Tsu.reset with
      timebase := 500, history := [⟨0, .fwd⟩], lastDir := some .fwd, stalled := false
      overspeedLimit := limit, overspeed := fast, presented := v }
    2 ≤ min ((t 0 false 0).depth + 1) ((t 0 false 0).step .fwd).history.length
      ∧ ((t 0 false 0).step .fwd).estimate = 20000
      ∧ ((t 20000 false 0).step .fwd).overspeed = false ∧ ((t 19999 false 0).step .fwd).overspeed = true
      ∧ 21333 - 21333 / 16 = 20000 ∧ ((t 21333 true 0).step .fwd).overspeed = false
      ∧ ((t 21000 true 0).step .fwd).overspeed = true
      ∧ ((t 0 true 0).step .fwd).overspeed = false ∧ ((t 1 false 20000).step .fwd).overspeed = false)
    ∧ min (Tsu.reset.depth + 1) (Tsu.reset.step .fwd).history.length < 2 := by decide

/-! ## The reference -/

/-- A travel limit of 4 counts: the fifth count is over it, the fourth is not. The sample carries no reference event,
the index event of the seek, a Z edge of the other direction, and the edge of the seek's latch, still to be taken by the
RFT or not. -/
theorem test_witness_StepInSeekingChecksTheTravel :
    (∀ x ∈ [stepping, steppingIndexed], let s := inSync (.seeking seekRec) (atPos 0 4 x)
      s.nrstLow = false ∧ s.stepDue = some .fwd ∧ s.rft.sync = .seeking seekRec ∧ s.bsc.commit = none
        ∧ seekRec.source = .index ∧ seekRec.travelLimit ≠ 0
        ∧ seekRec.travelLimit < (travel 4096 seekRec.start ⟨0, 5⟩).natAbs)
    ∧ stepping.sample.z = none ∧ steppingIndexed.sample.z = some true
    ∧ (let s := inSync (.seeking seekRec) (atPos 0 4 (found { Sample.idle with ab := some (.step .fwd), z := some false }))
      s.stepDue = some .fwd ∧ s.sample.z = some false ∧ (s.applyStep .fwd).referenceEventDue seekRec = false)
    ∧ (∀ e ∈ [some EdgeKind.rise, none], let s := inSync (.seeking latchRec) (atPos 0 4 (found { Sample.idle with
        ab := some (.step .fwd), refEdges := Quad.set (Quad.all none) 2 e }))
      s.nrstLow = false ∧ s.stepDue = some .fwd ∧ s.rft.sync = .seeking latchRec ∧ s.bsc.commit = none
        ∧ latchRec.source = .latch 2 ∧ latchRec.edgeCode = 3 ∧ s.sample.refEdges.get 2 = e)
    ∧ ¬seekRec.travelLimit < (travel 4096 seekRec.start ⟨0, 4⟩).natAbs := by decide

/-- Travel of CPR + 4 and CPR + 5 since the last index with tolerance 4, below the limit and at it; without a commit
and with one of each policy. -/
theorem test_witness_StepInLockDetectsAMissingIndex :
    (let s := checking 2 .observe (inSync (.locked refRec) (atPos 1 104 stepping))
     s.nrstLow = false ∧ s.stepDue = some .fwd ∧ s.rft.sync = .locked refRec ∧ s.bsc.commit = none
      ∧ s.rft.inForce.check = true ∧ refRec.consec + 1 < s.rft.inForce.limit
      ∧ s.pcu.axis.cpr + s.rft.inForce.tolerance
        < (travel 4096 ⟨0, 100⟩ (s.pcu.pos.step s.pcu.axis.cpr .fwd)).natAbs)
    ∧ (travel 4096 ⟨0, 100⟩ (AbsPos.step 4096 .fwd ⟨1, 103⟩)).natAbs ≤ 4096 + 4
    ∧ (checking 1 .observe stepping).rft.inForce.limit ≤ refRec.consec + 1
    ∧ (inSync (.locked refRec) stepping).rft.inForce.check = false
    ∧ (∀ q ∈ [CommitPolicy.atIndex, .atPosition 105],
      let s := checking 1 .observe (committing q (inSync (.locked refRec) (atPos 1 104 stepping)))
      s.nrstLow = false ∧ s.stepDue = some .fwd ∧ s.rft.sync = .locked refRec ∧ s.bsc.commit ≠ none
        ∧ s.rft.inForce.check = true ∧ s.rft.inForce.limit ≤ refRec.consec + 1
        ∧ s.pcu.axis.cpr + s.rft.inForce.tolerance
          < (travel 4096 ⟨0, 100⟩ (s.pcu.pos.step s.pcu.axis.cpr .fwd)).natAbs) := by decide

/-- In lock and at a loss (travel of CPR + 5): arrival, with an index event in the sample and without, no arrival, and
an AT_INDEX commit. -/
theorem test_witness_StepAtTheCommitPositionSwaps :
    (∀ q ∈ [CommitPolicy.atPosition 105, .atPosition 106, .atIndex], ∀ open' ∈ [stepping, steppingIndexed],
      let s := checking 1 .observe (committing q (inSync (.locked refRec) (atPos 1 104 open')))
      s.nrstLow = false ∧ s.stepDue = some .fwd ∧ s.rft.sync = .locked refRec
        ∧ s.bsc.commit = some { ticket := 9, policy := q }
        ∧ s.pcu.pos.step s.pcu.axis.cpr .fwd = ⟨1, 105⟩
        ∧ (s.rft.inForce.check = true ∧ s.rft.inForce.limit ≤ refRec.consec + 1
          ∧ refRec.index = some ⟨100, ⟨0, 100⟩⟩
          ∧ s.pcu.axis.cpr + s.rft.inForce.tolerance < (travel s.pcu.axis.cpr ⟨0, 100⟩ ⟨1, 105⟩).natAbs))
    ∧ (∀ q ∈ [CommitPolicy.atPosition 105, .atPosition 106, .atIndex], ∀ open' ∈ [stepping, steppingIndexed],
      let s := committing q (inSync (.locked refRec) (atPos 1 104 open'))
      s.nrstLow = false ∧ s.stepDue = some .fwd ∧ s.rft.sync = .locked refRec
        ∧ s.bsc.commit = some { ticket := 9, policy := q } ∧ s.rft.inForce.check = false)
    ∧ (stepping.sample.z = none ∧ steppingIndexed.sample.z = some true) := by decide

/-- In each sync state, with the counter at 0 and at 65535; in lock with a commit of each policy too. -/
theorem test_witness_QuadratureErrorFailsTheSeekOrLosesTheLock : erring.nrstLow = false ∧ erring.quadDue = true
    ∧ erring.bsc.commit = none ∧ erring.rft.sync = .free
    ∧ (inSync (.seeking seekRec) erring).quadDue = true ∧ (inSync (.locked refRec) erring).quadDue = true
    ∧ (inSync (.lost refRec) { erring with qdu := { erring.qdu with quadErrors := 0xFFFF } }).quadDue = true
    ∧ (∀ q ∈ [CommitPolicy.atIndex, .atPosition 105], let s := committing q (inSync (.locked refRec) erring)
      s.nrstLow = false ∧ s.quadDue = true ∧ s.rft.sync = .locked refRec ∧ s.bsc.commit ≠ none)
    ∧ (let s := inSync (.locked refRec) (found { Sample.idle with ab := some .error, z := some true })
      s.nrstLow = false ∧ s.quadDue = true ∧ s.indexFormed = true)
    ∧ erring.sample.ahead = false
    ∧ (found { Sample.idle with ab := some .error, ahead := true }).quadDue = true := by decide

/-- The QDU alone counts the error, so that a FAULT report can go before the loss of the lock; the rest follows, and the
error is counted once (R151). -/
theorem test_quadErrorInTwoParts :
    (let s := inSync (.locked refRec) { erring with rsc := { erring.rsc with credit := 1 } }
     let t := s.takeQuadTurn .count
     let u := t.takeQuadTurn (.take .lossFirst)
     t.qdu.quadErrors = 1 ∧ t.rft.sync.state = .locked ∧ t.takeReports.topSendable = some .fault ∧ t.quadDue = true
      ∧ u.qdu.quadErrors = 1 ∧ u.rft.sync.state = .lost ∧ u.takeReports.topSendable = some .sync
      ∧ u.rsc.fresh = [.fault .quadError]) := by decide

/-- A lock hands the RSC its SYNC event with its completion, and SYNC goes first (R23, R27). -/
theorem test_lockReportsSyncBeforeDone :
    (let t := State.takeIndexEvent .lossFirst
      (inSync (.seeking seekRec) { indexing with rsc := { indexing.rsc with credit := 2, inFlight := 1 } })
     t.rsc.waiting.map (·.outcome) = [.locked] ∧ t.takeReports.topSendable = some .sync
      ∧ (t.beforeHandOver .sync).kindSendable .sync = true) := by decide

/-- The index event that swaps before the change to LOST is taken whole with the quadrature error. -/
theorem test_indexEventIsTakenOnce : nextHas (exec (.quadError (.take .eventFirst)) (committing .atIndex (inSync (.locked refRec)
    (found { Sample.idle with ab := some .error, z := some true })))) (fun t =>
    decide (t.sample.z = none) && decide (t.rsc.waiting.map (·.outcome) = [.swapped]) && !t.sample.inSample) = true := by
  decide

theorem test_witness_IndexEventLocksAnIndexSeek : indexing.nrstLow = false ∧ indexing.indexDue = true
    ∧ indexing.bsc.commit = none ∧ (inSync (.seeking seekRec) indexing).indexDue = true ∧ seekRec.source = .index
    ∧ (inSync (.seeking latchRec) indexing).indexDue = true ∧ latchRec.source = .latch 2
    ∧ (inSync (.lost refRec) indexing).indexDue = true := by decide

/-- Differences of 0, 4 (the tolerance) and 5, under both policies, below the limit and at it; without a commit and
with one of each policy. -/
theorem test_witness_IndexEventInLockLearnsChecksAndCorrects :
    (let s := checking 2 .correct (inSync (.locked refRec) (atPos 1 104 indexing))
     s.nrstLow = false ∧ s.indexDue = true ∧ s.bsc.commit = none ∧ s.rft.sync = .locked refRec
      ∧ s.rft.configured.check = true ∧ s.rft.configured.policy = .correct
      ∧ signedDiff s.pcu.axis.cpr s.pcu.pos.angle 100 = 4 ∧ s.rft.configured.tolerance = 4
      ∧ refRec.consec + 1 < s.rft.configured.limit)
    ∧ signedDiff 4096 105 100 = 5 ∧ signedDiff 4096 100 100 = 0 ∧ signedDiff 4096 96 100 = -4
    ∧ (checking 1 .observe indexing).rft.configured.limit ≤ refRec.consec + 1
    ∧ (inSync (.locked { refRec with index := none }) indexing).indexDue = true
    ∧ indexing.rft.configured.check = false
    ∧ (∀ q ∈ [CommitPolicy.atIndex, .atPosition 105], ∀ n ∈ [100, 104, 105], ∀ y ∈ [IndexPolicy.observe, .correct],
      let s := checking 1 y (committing q (inSync (.locked refRec) (atPos 1 n indexing)))
      s.nrstLow = false ∧ s.indexDue = true ∧ s.rft.sync = .locked refRec ∧ s.bsc.commit ≠ none) := by decide

/-- Angles at both ends of the revolution, for an even and an odd CPR; a correction each way across the wrap. -/
theorem test_witness_CorrectionsEndAtTheIndexPosition : 8 ≤ 8 ∧ (⟨0, 7⟩ : AbsPos).angle < 8 ∧ 0 < 8
    ∧ signedDiff 8 7 0 = -1 ∧ 8 ≤ (7 : Int) - signedDiff 8 7 0 ∧ signedDiff 9 0 8 = 1
    ∧ (0 : Int) - signedDiff 9 0 8 < 0 ∧ 0 ≤ (5 : Int) - signedDiff 9 5 3 ∧ (5 : Int) - signedDiff 9 5 3 < 9 := by decide

/-- An index event, with both policies and with a kept arrival, in lock and at the loss; a quadrature error with an
index event and without one. -/
theorem test_witness_FieldEventsEndThePendingCommit :
    (let s := committing .atIndex (inSync (.locked refRec) indexing)
     s.nrstLow = false ∧ s.indexDue = true ∧ s.rft.sync = .locked refRec
      ∧ s.bsc.commit = some { ticket := 9, policy := .atIndex })
    ∧ (let s := checking 1 .observe (committing (.atPosition 7) (inSync (.locked refRec)
        (atPos 0 105 (found { Sample.idle with z := some true, arrival := some ⟨0, 7⟩ }))))
      s.indexDue = true ∧ s.sample.arrival = some ⟨0, 7⟩
        ∧ (s.takeIndexEvent .lossFirst).rft.sync.state = .lost)
    ∧ (let s := committing .atIndex (inSync (.locked refRec)
        (found { Sample.idle with ab := some .error, z := some true }))
      s.nrstLow = false ∧ s.quadDue = true ∧ s.rft.sync = .locked refRec ∧ s.indexFormed = true)
    ∧ erring.indexFormed = false := by decide

/-- A latch OFF, a holdoff of 10 microseconds running at 99 and over at 100 ticks, a queue of 31 and of 32 records;
each selection against each edge; a view that an earlier capture leaves and one that it does not; both parts of an edge
in a seek of that latch whose `edge` does not select it; a later latch, whose turn has not come. -/
theorem test_witness_LatchEdgesAreCapturedSuppressedOrLost :
    (edging.nrstLow = false ∧ edging.edgeDue = some 2 ∧ edging.sample.edges.get 2 = some .rise
      ∧ (edging.lcu.latches.get 2).arm ≠ .armed ∧ edging.rft.sync = .free)
    ∧ (let l := { armed with holdoff := some 1000, holdoffUs := 10 }
      (withLatch l (moving 99 edging)).edgeDue = some 2 ∧ l.arm = .armed ∧ l.edge = .both
        ∧ ((moving 99 edging).tsu.timebase - 1000).toNat < l.holdoffUs * 10
        ∧ l.holdoffUs * 10 ≤ ((moving 100 edging).tsu.timebase - 1000).toNat)
    ∧ ([EdgeSel.off, .rise, .fall, .both].map fun e => (e.selects .rise, e.selects .fall))
      = [(false, false), (true, false), (false, true), (true, true)]
    ∧ (List.replicate 31 record).length < 32 ∧ 32 ≤ (List.replicate 32 record).length
    ∧ (let v : View := { pos := ⟨0, 5⟩, sync := .seeking, generation := 0 }
      let x (n : Nat) := found { edging.sample with views := [v], reach := n }
      (x 1).sample.views[0]? = some v ∧ (x 1).viewAt (min 1 (x 1).sample.reach) = v
        ∧ (x 0).viewAt (min 1 (x 0).sample.reach) = (x 0).viewNow ∧ (x 2).sample.views.length < 2)
    ∧ (let r : SeekRecord := { latchRec with edgeCode := 2 }
      let s := inSync (.seeking r) edging
      s.edgeDue = some 2 ∧ s.sample.refEdges.get 2 = some .rise ∧ r.source = .latch 2
        ∧ ¬(r.edgeCode = 3 ∨ (r.edgeCode = 1 ∧ EdgeKind.rise = .rise) ∨ (r.edgeCode = 2 ∧ EdgeKind.rise = .fall)))
    ∧ twoEdges.edgeDue = some 0 ∧ twoEdges.edgeDue ≠ some 2 ∧ (twoEdges.sample.edges.get 2).isSome = true := by decide

/-- A capture after the lock leaves no view before it to a later capture of the sample. -/
theorem test_capturesKeepTheirOrder : (let t := (State.takeRefEdge 2 twoEdges).takeLatchEdge 0 (.lcu 0)
     t.sample.views.length = 1 ∧ t.sample.reach = 0 ∧ t.edgeDue = some 2
      ∧ t.lcu.queue.map (·.referenced) = [true]) := by decide

/-- A capture of latch 2 before the lock that its own edge makes, with a request between the edges of the sample (R128). -/
theorem test_captureBeforeItsOwnLock :
    (let t := (twoEdges.takeLatchEdge 0 (.both 0)).closeViews.takeLatchEdge 2 (.lcu 0)
     t.lcu.queue.map (fun c => (c.latch, c.referenced)) = [(0, false), (2, false)] ∧ t.refDue 2 = true
      ∧ (t.takeLatchEdge 2 .rft).rft.sync.state = .locked) := by decide

/-- A SEEK taken between the edges of a sample is locked by the edge of its latch (R198). -/
theorem test_seekTakenBeforeItsEdgeLocks :
    (let t := inSync (.seeking latchRec) ((inSync .free twoEdges).takeLatchEdge 0 (.both 0))
     t.rft.sync.state = .seeking ∧ (t.takeLatchEdge 2 (.both 0)).rft.sync.state = .locked) := by decide

/-- The seek's edge taken by the RFT alone and by both, with each view; taken by the RFT before the LCU's turn; an edge
of another latch; an edge taken already, and a step that comes first. -/
theorem test_witness_LatchEdgeLocksALatchSeek :
    (let s := inSync (.seeking latchRec) edging
     s.nrstLow = false ∧ s.sample.inSample = true ∧ s.stepDue = none ∧ s.rft.sync = .seeking latchRec
      ∧ s.edgeDue = some 2 ∧ s.sample.edges.get 2 = some .rise ∧ s.sample.refEdges.get 2 = some .rise
      ∧ latchRec.source = .latch 2 ∧ latchRec.edgeCode = 3
      ∧ ([0, 1, 2].map fun n => min n (s.sample.reach + 1)) = [0, 1, 1]
      ∧ (State.takeRefEdge 2 s).refDue 2 = false)
    ∧ (twoEdges.nrstLow = false ∧ twoEdges.edgeDue ≠ some 2 ∧ twoEdges.sample.refEdges.get 2 = some .rise
      ∧ twoEdges.rft.sync = .seeking latchRec ∧ twoEdges.sample.refEdges.get 0 = some .rise
      ∧ latchRec.source ≠ .latch 0)
    ∧ (let s := found { edging.sample with ab := some (.step .fwd) }
      s.stepDue ≠ none ∧ s.sample.refEdges.get 2 = some .rise) := by decide

/-! ## Speed -/

/-- The stall time of 1 ms reached exactly; a decay one tick after the span. -/
theorem test_witness_StallExpiryAndDecayLowerTheSpeed :
    (let s := expiring (found Sample.idle)
     s.nrstLow = false ∧ s.sample.inSample = true ∧ s.tsu.stalled = false
      ∧ s.tsu.history = ⟨1000, .fwd⟩ :: [⟨0, .fwd⟩] ∧ s.tsu.stallMs * 10000 ≤ (s.tsu.timebase - 1000).toNat)
    ∧ (let s := moving 1001 (found Sample.idle)
      s.nrstLow = false ∧ s.sample.inSample = true ∧ s.stepDue = none
        ∧ min (s.tsu.depth + 1) s.tsu.history.length = 2 ∧ spanOf (s.tsu.history.take 2) = 1000
        ∧ (s.tsu.timebase - 1000).toNat = 1001 ∧ s.tsu.decayed = 9990 ∧ s.tsu.decayed ≠ s.tsu.presented)
    ∧ (moving 1000 (found Sample.idle)).tsu.decayed = 10000 := by decide

/-! ## Tracks -/

/-- A window's edges: it covers its `on` and not its `off`; a window over the wrap; the second of two windows current. -/
theorem test_witness_EvaluationTestsTheWindowsWithHysteresis :
    (win.covers 7, win.covers 8, win.covers 19, win.covers 20) = (false, true, true, false)
    ∧ (let w : Window := { on := 20, off := 8, dir := .rev }
      (w.covers 19, w.covers 20, w.covers 7, w.covers 8) = (false, true, true, false) ∧ w.admits .fwd = false)
    ∧ (let s : State := { atPos 0 8 up with cts := { up.cts with active := bankWith [win] } }
      8 ≤ s.pcu.axis.cpr ∧ s.pcu.pos.angle < s.pcu.axis.cpr
        ∧ rawLevel s.evalInputs (s.cts.active.tracks.get 7) ≠ (s.tev.tracks.get 7).evaluated
        ∧ (s.tev.tracks.get 7).memory = none)
    ∧ (let s : State := { atPos 0 25 up with cts := { up.cts with
        active := bankWith [win, { on := 25, off := 40, dir := .fwd }] } }
      let tab := s.cts.active.tracks.get 7
      8 ≤ s.pcu.axis.cpr ∧ s.pcu.pos.angle < s.pcu.axis.cpr ∧ effectivePosition s.evalInputs tab = 25
        ∧ tab.windows.Pairwise (fun u w => u.overlaps w = false) ∧ currentWindow s.evalInputs tab = some 1)
    ∧ circDist 4096 4090 6 = 12 := by decide

/-- Hysteresis of 12 against a distance of 12 and of 11 counts, against the memory's direction. -/
theorem test_hysteresisTakesEffect :
    (let x : EvalInputs := { (atPos 0 6 up).evalInputs with dir := .rev }
     let tab : TrackTable := { windows := [], leadUs := 0, hysteresis := 12 }
     takesEffect x tab (some ⟨4090, .fwd⟩) = true ∧ takesEffect x tab (some ⟨4091, .fwd⟩) = false
      ∧ takesEffect x tab (some ⟨4091, .rev⟩) = true ∧ takesEffect x tab none = true) := by decide

/-- Inhibited by sync, by overspeed and by a stall, and not inhibited; every mode and the enable. -/
theorem test_witness_LevelsFollowEnableModeAndInhibits : up.rft.sync.state ≠ .locked
    ∧ (inSync (.locked refRec) up).rft.sync.state = .locked ∧ up.tsu.overspeed = false ∧ up.tsu.stalled = true
    ∧ up.tev.enable = false
    ∧ (let x : EvalInputs := { (inSync (.locked refRec) up).evalInputs with enable := true }
      inhibitCause x Track.reset = none
        ∧ inhibitCause x { Track.reset with stallInhibit := true } = some .inhibitedStall
        ∧ inhibitCause { x with overspeed := true } Track.reset = some .inhibitedOverspeed
        ∧ trackLevel x false { Track.reset with mode := .forceOn } = true
        ∧ trackLevel x true { Track.reset with mode := .forceOff } = false
        ∧ trackLevel { x with sync := .lost } true { Track.reset with safe := .hold } = true) := by decide

/-! ## Reports -/

/-- Kinds enabled and not; an empty and a saturated SYNC accumulator; two fault events, both folded, the second late,
and both folded where the report would carry nothing; a SYNC event, which no report finds missing; two completions of
one sample behind an older one, in either order. -/
theorem test_witness_TheReportSchedulerFoldsEvents : up.rsc.enable.sync = true ∧ up.rsc.sync = none
    ∧ up.rsc.enable.motion = false ∧ up.rsc.enable.fault = true
    ∧ (Rsc.syncEvent .free .release 7
        { up.rsc with sync := some { state := .lost, cause := .quadError, changes := 255, time := 0 } }).sync
      = some { state := .free, cause := .release, changes := 255, time := 7 }
    ∧ (let r := (up.rsc.addFault .quadError).addFault .captureLost
      r.fresh = [.fault .quadError, .fault .captureLost] ∧ r.takenAll.fault = ⟨true, false, false, true⟩
        ∧ (r.beforeReport .fault 2).fault = ⟨true, false, false, false⟩
        ∧ (r.beforeReport .fault 2).fresh = [.fault .captureLost]
        ∧ (r.beforeReport .fault 3).fresh = [] ∧ (r.beforeReport .done 3).fresh = []
        ∧ ReportKind.takes .fault (.fault .captureLost) = true)
    ∧ ({ up.rsc with motion := ⟨true, false, false, false, 0⟩ } : Rsc).motion ≠ ⟨false, false, false, false, 0⟩
    ∧ (let r := (Rsc.complete { completion with ticket := 3 } (Rsc.complete { completion with ticket := 2 }
        { up.rsc with waiting := [completion] }))
      r.recent = 2 ∧ r.waiting.drop (r.waiting.length - r.recent) = [{ completion with ticket := 2 }, { completion with ticket := 3 }]
        ∧ [3, 2].Perm ([2, 3] : List Nat) ∧ (r.ordered 0).waiting.map (·.ticket) = [1, 2, 3]
        ∧ (r.ordered 1).waiting.map (·.ticket) = [1, 3, 2]) := by decide

/-- Every order of three has its code. -/
theorem test_shuffle : (List.range 6).map (fun n => shuffle n [1, 2, 3])
    = [[1, 2, 3], [2, 1, 3], [2, 3, 1], [1, 3, 2], [3, 1, 2], [3, 2, 1]] := by decide

/-- HELLO without credit; FAULT with one credit before MOTION; nothing sendable without credit; an event not folded
yet; DONE with two completions of one sample. -/
theorem test_witness_TheHighestSendableReportGoes :
    (let s := withTx .free State.reset
     s.nrstLow = false ∧ s.lkp.tx = .free ∧ s.lkp.replies = [] ∧ s.rsc.fresh = [] ∧ s.rsc.credit = 0
      ∧ s.takeReports.kindSendable .hello = true ∧ s.takeReports.topSendable = some .hello)
    ∧ (let s : State := { up with rsc := { up.rsc with
        credit := 1, fault := ⟨true, false, false, false⟩, motion := ⟨true, false, false, false, 0⟩ } }
      s.topSendable = some .fault ∧ s.kindSendable .motion = true)
    ∧ (let s : State := { up with rsc := { up.rsc.addFault .quadError with credit := 1 } }
      s.nrstLow = false ∧ s.lkp.tx = .free ∧ s.lkp.replies = [] ∧ s.rsc.fresh ≠ [] ∧ s.topSendable = none
        ∧ s.takeReports.topSendable = some .fault)
    ∧ (let s : State := { up with rsc := { (up.rsc.complete completion).complete completion with credit := 1 } }
      s.nrstLow = false ∧ s.lkp.tx = .free ∧ s.lkp.replies = [] ∧ s.rsc.recent = 2 ∧ s.topSendable = some .done)
    ∧ up.topSendable = none ∧ (withTx (.sending (aReply false)) up).lkp.tx ≠ .free := by decide

/-- A content of each kind that must have one. -/
theorem test_witness_HandOverFormsTheReport : State.reset.rsc.hello = some .powerOn
    ∧ (up.rsc.syncEvent .seeking .seek 0).sync = some ⟨.seeking, .seek, 1, 0⟩
    ∧ (up.rsc.complete completion).waiting = completion :: []
    ∧ ({ up with rsc := { up.rsc with position := some ⟨.free, ⟨0, 0⟩, 0, 0, 0⟩ } } : State).rsc.position
      = some ⟨.free, ⟨0, 0⟩, 0, 0, 0⟩ := by decide

/-! ## The link -/

/-- Each receiver state; LEN 240 and 241; the last byte of a body and the one before it; a line that takes no start
bits, in HUNT and inside a frame. -/
theorem test_witness_GoodBytesAdvanceAndErrorsDiscardTheFrame : up.nrstLow = false ∧ up.lkp.rxLine = .ready
    ∧ up.lkp.rx = .hunt ∧ (receiving .length up).lkp.rx = .length ∧ (240 : Byte).toNat ≤ 240 ∧ 240 < (241 : Byte).toNat
    ∧ ([] : List Byte).length + 1 ≠ (0 : Byte).toNat + 2 ∧ ([1] : List Byte).length + 1 = (0 : Byte).toNat + 2
    ∧ (receiving (.check 0 [1, 1] none) up).lkp.rx = .check 0 [1, 1] none
    ∧ (ByteEvent.lineBreak ≠ .good 0xB7) ∧ (receiving .length up).lkp.rx ≠ .hunt ∧ State.reset.lkp.rxLine ≠ .ready
    ∧ State.reset.nrstLow = false ∧ (receiving (.check 0 [1, 1] (some 0xEF)) State.reset).lkp.rxLine ≠ .ready := by decide

/-- IDENTIFY with SEQ 1 after its high CRC byte: a new request, a repeat of a queued and of a cached one. -/
theorem test_witness_CompletedFramesAreAdmitted :
    (let s := receiving (.check 0 [1, 1] (some 0xEF)) up
     s.nrstLow = false ∧ s.lkp.rxLine = .ready ∧ s.lkp.rx = .check 0 [1, 1] (some 0xEF)
      ∧ (0xEF : Byte) ++ (0x8C : Byte) = crc (0 :: [1, 1]) ∧ s.lkp.cache = [] ∧ s.lkp.inbound.length < 4)
    ∧ (0xEF : Byte) ++ (0x8D : Byte) ≠ crc (0 :: [1, 1])
    ∧ (let r : Request := { seq := 1, kind := 1, payload := [], crc := 0xEF8C }
      ([r, r, r, r] : List Request).length = 4 ∧ (∃ q ∈ [r], q.seq = r.seq ∧ q.crc = r.crc)
        ∧ ([⟨1, 0xEF8C, []⟩] : List CacheEntry).find? (fun e => decide (e.seq = r.seq ∧ e.crc = r.crc))
          = some ⟨1, 0xEF8C, []⟩) := by decide +kernel

theorem test_witness_TransmitEndStartsTheNextFrame :
    (withTx (.sending (aReply true)) up).nrstLow = false ∧ (aReply true).resetOk = true
    ∧ (withTx (.sending (aReply false)) up).lkp.tx = .sending (aReply false) ∧ (aReply false).resetOk = false
    ∧ (withTx (.sending (aReply false)) up).lkp.replies = []
    ∧ (withTx (.sending (aReply false)) up).takeReports.topSendable = none
    ∧ (withTx (.sending (aReply false)) up).rsc.fresh = []
    ∧ (withTx (.sending (aReply false)) { up with rsc := up.rsc.addFault .quadError }).rsc.fresh ≠ []
    ∧ (withTx (.sending (aReply false)) State.reset).kindSendable .hello = true
    ∧ (withTx (.sending (aReply false)) { up with
        rsc := { (up.rsc.complete completion).complete completion with credit := 1 } }).topSendable = some .done
    ∧ ({ up.lkp with replies := [aReply false] } : Lkp).replies = aReply false :: [] := by decide

/-! ## Requests -/

/-- A kind that is no request code, IDENTIFY with one byte of payload, and a COMMIT without one, whose kind all three
COMMIT rows have. -/
theorem test_witness_UnknownKindsAndWrongLengthsAreRefused :
    (let s := offered up 0x05 []
     s.nrstLow = false ∧ s.lkp.inbound = req 0x05 [] :: [] ∧ s.lkp.replies.length ≤ 4 ∧ s.lkp.resetPending = false
      ∧ (s.sample.moved = true → s.speedDue = false)
      ∧ requestLength? 0x05 = none)
    ∧ requestKind .identify = some 0x01 ∧ (offered up 0x01 [0]).lkp.inbound = req 0x01 [0] :: []
    ∧ requestLength? 0x01 ≠ some ([0] : List Byte).length
    ∧ (offered up 0x20 []).lkp.inbound = req 0x20 [] :: [] ∧ requestLength? 0x20 ≠ some ([] : List Byte).length
    ∧ (∀ c ∈ [Instr.commitNow, .commitAtPosition, .commitAtIndex], requestKind c = some 0x20) := by decide

/-- Every read; a decay one tick after the span and at it. -/
theorem test_witness_ReadsOfDeviceAxisReferenceAndSpeed : Meets 0x01 (fun _ _ => True) ∧ Meets 0x02 (fun _ _ => True)
    ∧ Meets 0x08 (fun _ _ => True) ∧ Meets 0x3A (fun _ _ => True) ∧ Meets 0x0F (fun _ _ => True)
    ∧ Meets 0x11 (fun s _ => s.tsu.lastDir = some .fwd)
    ∧ (∀ k ∈ [0x02, 0x08, 0x0F, 0x11], Meets k (fun s _ => s.stepDue = some .fwd))
    ∧ Meets 0x3A (fun s _ => s.rsc.fresh ≠ [])
    ∧ Meets 0x11 (fun s _ => s.tsu.history = ⟨1000, .fwd⟩ :: [⟨0, .fwd⟩] ∧ min (s.tsu.depth + 1) s.tsu.history.length = 2
      ∧ spanOf (s.tsu.history.take 2) = 1000 ∧ (s.tsu.timebase - 1000).toNat = 1001)
    ∧ Meets 0x11 (fun s _ => spanOf (s.tsu.history.take 2) = (s.tsu.timebase - 1000).toNat * (2 - 1)) := by
  refine ⟨meets up [] (by decide) trivial, meets up [] (by decide) trivial, meets up [] (by decide) trivial,
    meets up [] (by decide) trivial, meets up [] (by decide) trivial, meets (moving 5 up) [] (by decide) (by decide),
    fun k hk => meets stepping [] ⟨rfl, by decide, rfl, ?_⟩ rfl,
    meets { up with rsc := up.rsc.addFault .quadError } [] (by decide) (by decide),
    meets (moving 1001 up) [] (by decide) (by decide), meets (moving 1000 up) [] (by decide) (by decide)⟩
  revert k; decide

/-- Tracks 7 and 8, banks 1 and 2. -/
theorem test_witness_ReadsOfBanksAndTracks : Meets 0x1B (fun _ p => 7 < u8At p 1)
    ∧ Meets 0x1B (fun _ p => u8At p 1 ≤ 7 ∧ 1 < u8At p 0)
    ∧ Meets 0x1B (fun _ p => u8At p 1 = (7 : Fin 8).val ∧ u8At p 0 = 1) ∧ Meets 0x1E (fun _ _ => True)
    ∧ Meets 0x2A (fun _ p => 7 < u8At p 0) ∧ Meets 0x2A (fun _ p => u8At p 0 = (7 : Fin 8).val)
    ∧ Meets 0x2A (fun s p => u8At p 0 = (7 : Fin 8).val ∧ s.stepDue = some .fwd) :=
  ⟨meets up [0, 8] (by decide) (by decide), meets up [2, 7] (by decide) (by decide),
    meets up [1, 7] (by decide) (by decide), meets up [] (by decide) trivial, meets up [8] (by decide) (by decide),
    meets up [7] (by decide) (by decide), meets stepping [7] (by decide) (by decide)⟩

theorem test_witness_LinkStatusReadsAndClearsTheCounters : Meets 0x03 (fun _ p => 1 < u8At p 0)
    ∧ Meets 0x03 (fun _ p => u8At p 0 = 1) ∧ Meets 0x03 (fun _ p => u8At p 0 = 0) :=
  ⟨meets up [2] (by decide) (by decide), meets up [1] (by decide) (by decide), meets up [0] (by decide) (by decide)⟩

/-- CPR 7, 8, 65536 and 65537, filter lengths 15 and 16, a window at the new CPR, a step still to be taken, and each
refusal. -/
theorem test_witness_AxisSetAndPositionSetReplaceThePosition : Meets 0x09 (fun _ p => u32At p 0 < 8)
    ∧ Meets 0x09 (fun _ p => 65536 < u32At p 0) ∧ Meets 0x09 (fun _ p => u32At p 0 = 8 ∧ 15 < u8At p 6)
    ∧ Meets 0x09 (fun _ p => u32At p 0 = 65536 ∧ u8At p 6 = 15 ∧ countMode? (byteAt p 4) = none)
    ∧ Meets 0x09 (fun s p => u32At p 0 = 8 ∧ countMode? (byteAt p 4) = some .x1 ∧ u8At p 5 ≤ 1 ∧ u8At p 7 ≤ 1
      ∧ s.rft.sync.state ≠ .free)
    ∧ Meets 0x09 (fun s p => u32At p 0 = 8 ∧ countMode? (byteAt p 4) = some .x1 ∧ s.rft.sync.state = .free
      ∧ win ∈ (s.cts.shadow.tracks.get 7).windows ∧ u32At p 0 ≤ win.on)
    ∧ Meets 0x09 (fun s p => u32At p 0 = 21 ∧ countMode? (byteAt p 4) = some .x1 ∧ s.rft.sync.state = .free
      ∧ win ∈ (s.cts.shadow.tracks.get 7).windows ∧ win.off < u32At p 0)
    ∧ Meets 0x09 (fun s p => u32At p 0 = 8 ∧ countMode? (byteAt p 4) = some .x1 ∧ s.rft.sync.state = .free
      ∧ s.stepDue = some .fwd)
    ∧ Meets 0x0A (fun s p => u16At p 0 = s.pcu.axis.cpr) ∧ Meets 0x0A (fun _ p => u16At p 0 = 4095 ∧ byteAt p 3 ≠ 0)
    ∧ Meets 0x0A (fun s _ => s.rft.sync.state ≠ .free)
    ∧ Meets 0x0A (fun s p => u16At p 0 = 4095 ∧ byteAt p 2 = 0 ∧ byteAt p 3 = 0 ∧ s.rft.sync.state = .free) :=
  ⟨meets up [7, 0, 0, 0, 1, 0, 15, 0] (by decide) (by decide), meets up [1, 0, 1, 0, 1, 0, 0, 0] (by decide) (by decide),
    meets up [8, 0, 0, 0, 1, 0, 16, 0] (by decide) (by decide), meets up [0, 0, 1, 0, 3, 0, 15, 0] (by decide) (by decide),
    meets (inSync (.lost refRec) up) [8, 0, 0, 0, 1, 1, 15, 1] (by decide) (by decide),
    meets (withShadow (bankWith [win]) up) [8, 0, 0, 0, 1, 1, 15, 1] (by decide) (by decide),
    meets (withShadow (bankWith [win]) up) [21, 0, 0, 0, 1, 1, 15, 1] (by decide) (by decide),
    meets stepping [8, 0, 0, 0, 1, 1, 15, 1] (by decide) (by decide),
    meets up [0, 16, 0, 0, 0, 0, 0, 0] (by decide) (by decide), meets up [255, 15, 0, 1, 0, 0, 0, 0] (by decide) (by decide),
    meets (inSync (.lost refRec) up) [0, 0, 0, 0, 0, 0, 0, 0] (by decide) (by decide),
    meets up [255, 15, 0, 0, 0, 0, 0, 0] (by decide) (by decide)⟩

/-- Limits 0, 1, 7 and 8. -/
theorem test_witness_IndexCheckSetReplacesTheConfiguredSet : Meets 0x0B (fun _ p => u8At p 2 < 1)
    ∧ Meets 0x0B (fun _ p => 7 < u8At p 2) ∧ Meets 0x0B (fun _ p => u8At p 2 = 7 ∧ 1 < u8At p 0)
    ∧ Meets 0x0B (fun _ p => u8At p 2 = 1 ∧ u8At p 0 = 1 ∧ u8At p 3 = 1) :=
  ⟨meets up [1, 4, 0, 0] (by decide) (by decide), meets up [1, 4, 8, 0] (by decide) (by decide),
    meets up [2, 4, 7, 0] (by decide) (by decide), meets up [1, 4, 1, 1] (by decide) (by decide)⟩

/-- Each branch of the chain, at its edge; acceptance with three places used and with a pending commit. -/
theorem test_witness_SeekStartsASeek : Meets 0x0C (fun s p => u16At p 2 = s.pcu.axis.cpr)
    ∧ Meets 0x0C (fun _ p => u32At p 4 = 16777216) ∧ Meets 0x0C (fun _ p => u8At p 0 = 5)
    ∧ Meets 0x0C (fun _ p => u8At p 0 = 4 ∧ u8At p 1 = 0)
    ∧ Meets 0x0C (fun s p => u8At p 0 = 0 ∧ s.pcu.axis.indexEnable = false)
    ∧ Meets 0x0C (fun s p => u8At p 0 = 4 ∧ u8At p 1 = 3 ∧ s.rft.sync.state = .seeking)
    ∧ Meets 0x0C (fun s p => u8At p 0 = 0 ∧ 4 ≤ s.rsc.inFlight + s.rsc.waiting.length)
    ∧ Meets 0x0C (fun s p => u8At p 0 = 4 ∧ u8At p 1 = 1 ∧ u16At p 2 = 4095 ∧ u32At p 4 = 16777215
      ∧ s.rft.sync.state = .free ∧ s.rsc.inFlight + s.rsc.waiting.length = 3)
    ∧ Meets 0x0C (fun s p => u8At p 0 = 0 ∧ s.pcu.axis.indexEnable = true ∧ s.rft.sync.state = .locked
      ∧ s.bsc.commit ≠ none) :=
  ⟨meets up [0, 0, 0, 16, 0, 0, 0, 0] (by decide) (by decide), meets up [0, 0, 0, 0, 0, 0, 0, 1] (by decide) (by decide),
    meets up [5, 1, 0, 0, 0, 0, 0, 0] (by decide) (by decide), meets up [4, 0, 0, 0, 0, 0, 0, 0] (by decide) (by decide),
    meets { up with pcu := { up.pcu with axis := { up.pcu.axis with indexEnable := false } } } [0, 0, 0, 0, 0, 0, 0, 0]
      (by decide) (by decide),
    meets (inSync (.seeking seekRec) up) [4, 3, 0, 0, 0, 0, 0, 0] (by decide) (by decide),
    meets { up with rsc := { up.rsc with waiting := List.replicate 4 completion } } [0, 0, 0, 0, 0, 0, 0, 0]
      (by decide) (by decide),
    meets { up with rsc := { up.rsc with waiting := List.replicate 3 completion } } [4, 1, 255, 15, 255, 255, 255, 0]
      (by decide) (by decide),
    meets (committing .atIndex (inSync (.locked refRec) up)) [0, 0, 0, 0, 0, 0, 0, 0] (by decide) (by decide)⟩

theorem test_witness_SeekAbortAndReleaseReturnToFree : Meets 0x0D (fun s _ => s.rft.sync.state ≠ .seeking)
    ∧ Meets 0x0D (fun s _ => s.rft.sync = .seeking seekRec) ∧ Meets 0x0E (fun s _ => s.rft.sync.state = .free)
    ∧ Meets 0x0E (fun s _ => s.rft.sync = .seeking seekRec)
    ∧ Meets 0x0E (fun s _ => s.rft.sync.state = .lost ∧ s.bsc.commit = none)
    ∧ Meets 0x0E (fun s _ => s.rft.sync.state = .locked ∧ s.bsc.commit ≠ none) :=
  ⟨meets up [] (by decide) (by decide), meets (inSync (.seeking seekRec) up) [] (by decide) (by decide),
    meets up [] (by decide) (by decide), meets (inSync (.seeking seekRec) up) [] (by decide) (by decide),
    meets (inSync (.lost refRec) up) [] (by decide) (by decide),
    meets (committing .atIndex (inSync (.locked refRec) up)) [] (by decide) (by decide)⟩

/-- Stall times 0 and 1, limits 16777215 and 16777216, depths 3 and 8, a stall time reached exactly and not yet. -/
theorem test_witness_SpeedSetActsAtOnce : Meets 0x10 (fun _ p => u16At p 2 = 0)
    ∧ Meets 0x10 (fun _ p => 16777215 < u32At p 4)
    ∧ Meets 0x10 (fun _ p => u16At p 2 = 1 ∧ u32At p 4 = 16777215 ∧ u8At p 0 = 3)
    ∧ Meets 0x10 (fun s p => u8At p 0 = 8 ∧ byteAt p 1 = 0 ∧ s.tsu.stalled = false
      ∧ s.tsu.history = ⟨1000, .fwd⟩ :: [⟨0, .fwd⟩] ∧ u16At p 2 * 10000 ≤ (s.tsu.timebase - 1000).toNat)
    ∧ Meets 0x10 (fun s p => u8At p 0 = 1 ∧ byteAt p 1 = 0 ∧ s.tsu.history = ⟨1000, .fwd⟩ :: [⟨0, .fwd⟩]
      ∧ (s.tsu.timebase - 1000).toNat < u16At p 2 * 10000) ∧ Meets 0x10 (fun s _ => s.tsu.stalled = true) :=
  ⟨meets up [1, 0, 0, 0, 0, 0, 0, 0] (by decide) (by decide), meets up [1, 0, 1, 0, 0, 0, 0, 1] (by decide) (by decide),
    meets up [3, 0, 1, 0, 255, 255, 255, 0] (by decide) (by decide),
    meets (moving 10000 up) [8, 0, 1, 0, 0, 0, 0, 0] (by decide) (by decide),
    meets (moving 9999 up) [1, 0, 1, 0, 0, 0, 0, 0] (by decide) (by decide),
    meets up [1, 0, 1, 0, 0, 0, 0, 0] (by decide) (by decide)⟩

/-- Track 8, `on` at CPR, a bad direction, a pending commit, an overlap at the first covered angle, an overlap with two
windows, a neighbour that only touches, and full tables. -/
theorem test_witness_WindowAddInsertsIntoShadow : Meets 0x18 (fun _ p => 7 < u8At p 0)
    ∧ Meets 0x18 (fun s p => u8At p 0 = 7 ∧ u16At p 2 = s.pcu.axis.cpr)
    ∧ Meets 0x18 (fun s p => u8At p 0 = 7 ∧ u16At p 4 < s.pcu.axis.cpr ∧ u16At p 2 = u16At p 4)
    ∧ Meets 0x18 (fun _ p => u8At p 0 = 7 ∧ 2 < u8At p 1)
    ∧ Meets 0x18 (fun s p => u8At p 0 = 7 ∧ winDir? (byteAt p 1) = some .both ∧ s.bsc.commit ≠ none)
    ∧ Meets 0x18 (fun s p => winDir? (byteAt p 1) = some .both ∧ s.bsc.commit = none
      ∧ (s.cts.shadow.tracks.get 7).windows.find? (fun u => u.covers (u16At p 2)
        || Window.covers ⟨u16At p 2, u16At p 4, .both⟩ u.on) = some win)
    ∧ Meets 0x18 (fun s p => s.bsc.commit = none ∧ win ∈ (s.cts.shadow.tracks.get 7).windows
      ∧ (win.covers (u16At p 2) = true ∨ Window.covers ⟨u16At p 2, u16At p 4, .both⟩ win.on = true)
      ∧ (s.cts.shadow.tracks.get 7).windows.Pairwise (fun a b => a.on < b.on)
      ∧ (s.cts.shadow.tracks.get 7).windows.length = 2
      ∧ ∀ x ∈ (s.cts.shadow.tracks.get 7).windows,
        x.covers (u16At p 2) = true ∨ Window.covers ⟨u16At p 2, u16At p 4, .both⟩ x.on = true → win.on ≤ x.on)
    ∧ Meets 0x18 (fun s p => s.bsc.commit = none ∧ s.cts.shadow.pool < 64
      ∧ (s.cts.shadow.tracks.get 7).windows.length < 16
      ∧ (s.cts.shadow.tracks.get 7).windows.Pairwise (fun a b => a.on < b.on)
      ∧ ∀ u ∈ (s.cts.shadow.tracks.get 7).windows, u.covers (u16At p 2) = false
        ∧ Window.covers ⟨u16At p 2, u16At p 4, .both⟩ u.on = false)
    ∧ Meets 0x18 (fun s _ => s.bsc.commit = none ∧ 64 ≤ s.cts.shadow.pool
      ∧ (s.cts.shadow.tracks.get 7).windows.length < 16) ∧ 16 ≤ (List.replicate 16 win).length :=
  ⟨meets up [8, 2, 20, 0, 30, 0] (by decide) (by decide), meets up [7, 2, 0, 16, 30, 0] (by decide) (by decide),
    meets up [7, 2, 30, 0, 30, 0] (by decide) (by decide), meets up [7, 3, 20, 0, 30, 0] (by decide) (by decide),
    meets (committing .atIndex up) [7, 2, 20, 0, 30, 0] (by decide) (by decide),
    meets (withShadow (bankWith [win]) up) [7, 2, 19, 0, 30, 0] (by decide) (by decide),
    meets (withShadow (bankWith [win, { on := 25, off := 40, dir := .both }]) up) [7, 2, 19, 0, 30, 0] (by decide)
      (by decide),
    meets (withShadow (bankWith [win]) up) [7, 2, 20, 0, 8, 0] (by decide) (by decide),
    meets (withShadow { bankWith [] with pool := 64 } up) [7, 2, 20, 0, 30, 0] (by decide) (by decide), by decide⟩

/-- Tracks 7 and 8, a key that is there and one that is not, hysteresis 255 and 256, with a commit pending and
without. -/
theorem test_witness_RemovalsParametersAndRevertActOnShadow : Meets 0x19 (fun _ p => 7 < u8At p 0)
    ∧ Meets 0x19 (fun _ p => u8At p 0 = 7 ∧ byteAt p 1 ≠ 0)
    ∧ Meets 0x19 (fun s p => u8At p 0 = 7 ∧ byteAt p 1 = 0 ∧ s.bsc.commit ≠ none)
    ∧ Meets 0x19 (fun s p => byteAt p 1 = 0 ∧ s.bsc.commit = none
      ∧ ∀ u ∈ (s.cts.shadow.tracks.get 7).windows, u.on ≠ u16At p 2)
    ∧ Meets 0x19 (fun s p => byteAt p 1 = 0 ∧ s.bsc.commit = none
      ∧ (s.cts.shadow.tracks.get 7).windows = [] ++ win :: [] ∧ win.on = u16At p 2)
    ∧ Meets 0x1A (fun _ p => 7 < u8At p 0) ∧ Meets 0x1A (fun s p => u8At p 0 = 7 ∧ s.bsc.commit ≠ none)
    ∧ Meets 0x1A (fun s p => u8At p 0 = 7 ∧ s.bsc.commit = none)
    ∧ Meets 0x1C (fun _ p => u8At p 0 = 7 ∧ u16At p 4 = 256)
    ∧ Meets 0x1C (fun _ p => u8At p 0 = 7 ∧ u16At p 4 = 255 ∧ byteAt p 1 ≠ 0)
    ∧ Meets 0x1C (fun s p => u8At p 0 = 7 ∧ u16At p 4 = 255 ∧ byteAt p 1 = 0 ∧ s.bsc.commit ≠ none)
    ∧ Meets 0x1C (fun s p => u8At p 0 = 7 ∧ u16At p 4 = 255 ∧ byteAt p 1 = 0 ∧ s.bsc.commit = none)
    ∧ Meets 0x1D (fun s _ => s.bsc.commit ≠ none) ∧ Meets 0x1D (fun s _ => s.bsc.commit = none) :=
  ⟨meets up [8, 0, 8, 0] (by decide) (by decide), meets up [7, 1, 8, 0] (by decide) (by decide),
    meets (committing .atIndex up) [7, 0, 8, 0] (by decide) (by decide),
    meets (withShadow (bankWith [win]) up) [7, 0, 9, 0] (by decide) (by decide),
    meets (withShadow (bankWith [win]) up) [7, 0, 8, 0] (by decide) (by decide), meets up [8] (by decide) (by decide),
    meets (committing .atIndex up) [7] (by decide) (by decide), meets up [7] (by decide) (by decide),
    meets up [7, 0, 0, 0, 0, 1] (by decide) (by decide), meets up [7, 1, 0, 0, 255, 0] (by decide) (by decide),
    meets (committing .atIndex up) [7, 0, 0, 0, 255, 0] (by decide) (by decide),
    meets up [7, 0, 0, 0, 255, 0] (by decide) (by decide), meets (committing .atIndex up) [] (by decide) (by decide),
    meets up [] (by decide) (by decide)⟩

theorem test_witness_CommitNowSwapsAndCommitCancelEnds : Meets 0x20 (fun _ p => u8At p 0 = 0 ∧ byteAt p 1 ≠ 0)
    ∧ Meets 0x20 (fun s p => u8At p 0 = 0 ∧ byteAt p 1 = 0 ∧ s.bsc.commit ≠ none)
    ∧ Meets 0x20 (fun s p => u8At p 0 = 0 ∧ byteAt p 1 = 0 ∧ s.bsc.commit = none)
    ∧ Meets 0x21 (fun s _ => s.bsc.commit = none)
    ∧ Meets 0x21 (fun s _ => s.bsc.commit = some { ticket := 9, policy := .atIndex }) :=
  ⟨meets up [0, 1, 0, 0] (by decide) (by decide), meets (committing .atIndex up) [0, 0, 0, 0] (by decide) (by decide),
    meets up [0, 0, 0, 0] (by decide) (by decide), meets up [] (by decide) (by decide),
    meets (committing .atIndex up) [] (by decide) (by decide)⟩

/-- Angles CPR and CPR - 1, each refusal in its turn, and the policy byte 3. -/
theorem test_witness_CommitWithAPositionPolicyWaits : Meets 0x20 (fun s p => u8At p 0 = 1 ∧ u16At p 2 = s.pcu.axis.cpr)
    ∧ Meets 0x20 (fun s p => u8At p 0 = 1 ∧ u16At p 2 = 4095 ∧ byteAt p 1 = 0 ∧ s.rft.sync.state ≠ .locked)
    ∧ Meets 0x20 (fun s p => u8At p 0 = 1 ∧ byteAt p 1 = 0 ∧ s.rft.sync.state = .locked ∧ s.bsc.commit ≠ none)
    ∧ Meets 0x20 (fun s p => u8At p 0 = 1 ∧ u16At p 2 = 4095 ∧ byteAt p 1 = 0 ∧ s.rft.sync.state = .locked
      ∧ s.bsc.commit = none ∧ s.rsc.inFlight + s.rsc.waiting.length = 3)
    ∧ Meets 0x20 (fun s p => u8At p 0 = 2 ∧ byteAt p 1 = 0 ∧ s.rft.sync.state = .locked ∧ s.bsc.commit = none
      ∧ 4 ≤ s.rsc.inFlight + s.rsc.waiting.length)
    ∧ Meets 0x20 (fun s p => u8At p 0 = 2 ∧ byteAt p 1 = 0 ∧ s.rft.sync.state = .locked
      ∧ s.pcu.axis.indexEnable = true ∧ s.bsc.commit = none)
    ∧ Meets 0x20 (fun s p => u8At p 0 = 1 ∧ u16At p 2 = 7 ∧ byteAt p 1 = 0 ∧ s.rft.sync.state = .locked
      ∧ s.bsc.commit = none ∧ s.sample.arrival = some ⟨0, 7⟩)
    ∧ Meets 0x20 (fun _ p => u8At p 0 = 3) :=
  ⟨meets up [1, 0, 0, 16] (by decide) (by decide), meets up [1, 0, 255, 15] (by decide) (by decide),
    meets (committing .atIndex (inSync (.locked refRec) up)) [1, 0, 0, 0] (by decide) (by decide),
    meets (inSync (.locked refRec) { up with rsc := { up.rsc with waiting := List.replicate 3 completion } })
      [1, 0, 255, 15] (by decide) (by decide),
    meets (inSync (.locked refRec) { up with rsc := { up.rsc with waiting := List.replicate 4 completion } })
      [2, 0, 0, 0] (by decide) (by decide),
    meets (inSync (.locked refRec) up) [2, 0, 0, 0] (by decide) (by decide),
    meets (inSync (.locked refRec) (found { Sample.idle with z := some true, arrival := some ⟨0, 7⟩ })) [1, 0, 7, 0]
      (by decide) (by decide), meets up [3, 0, 0, 0] (by decide) (by decide)⟩

theorem test_witness_OutputRequestsSetAndEvaluate : Meets 0x28 (fun _ p => u8At p 0 = 2)
    ∧ Meets 0x28 (fun _ p => u8At p 0 = 1) ∧ Meets 0x29 (fun _ p => u8At p 0 = 8)
    ∧ Meets 0x29 (fun _ p => u8At p 0 = (7 : Fin 8).val ∧ 2 < u8At p 1)
    ∧ Meets 0x29 (fun _ p => u8At p 0 = (7 : Fin 8).val ∧ TrackMode.forceOff.code = byteAt p 1
      ∧ SafeLevel.hold.code = byteAt p 2 ∧ Polarity.activeLow.code = byteAt p 3 ∧ u8At p 4 = 1 ∧ byteAt p 5 = 0) :=
  ⟨meets up [2] (by decide) (by decide), meets up [1] (by decide) (by decide),
    meets up [8, 0, 0, 0, 0, 0] (by decide) (by decide), meets up [7, 3, 0, 0, 0, 0] (by decide) (by decide),
    meets up [7, 2, 2, 1, 1, 0] (by decide) (by decide)⟩

theorem test_witness_LatchRequestsConfigureAndArm : Meets 0x30 (fun _ p => u8At p 0 = 4)
    ∧ Meets 0x30 (fun _ p => u8At p 0 = 3 ∧ u8At p 3 = 16)
    ∧ Meets 0x30 (fun _ p => u8At p 0 = 3 ∧ u8At p 3 = 15 ∧ 3 < u8At p 1)
    ∧ Meets 0x30 (fun _ p => u8At p 0 = (3 : Fin 4).val ∧ u8At p 3 = 15 ∧ u8At p 2 = 1
      ∧ edgeSel? (byteAt p 1) = some .both) ∧ Meets 0x31 (fun _ p => u8At p 0 = 4)
    ∧ Meets 0x31 (fun s p => u8At p 0 = (2 : Fin 4).val ∧ (s.lcu.latches.get 2).arm = .off)
    ∧ Meets 0x31 (fun s p => u8At p 0 = (2 : Fin 4).val ∧ (s.lcu.latches.get 2).arm ≠ .off) :=
  ⟨meets up [4, 3, 1, 15, 0, 0] (by decide) (by decide), meets up [3, 3, 1, 16, 0, 0] (by decide) (by decide),
    meets up [3, 4, 1, 15, 0, 0] (by decide) (by decide), meets up [3, 3, 1, 15, 0, 0] (by decide) (by decide),
    meets up [4] (by decide) (by decide), meets up [2] (by decide) (by decide),
    meets (withLatch armed up) [2] (by decide) (by decide)⟩

/-- Counts 0, 1, 8 and 9. -/
theorem test_witness_CaptureRequestsRemoveRecords : Meets 0x32 (fun _ p => u8At p 0 = 0)
    ∧ Meets 0x32 (fun _ p => u8At p 0 = 9) ∧ Meets 0x32 (fun s p => u8At p 0 = 8 ∧ s.lcu.queue = [record])
    ∧ Meets 0x32 (fun s p => u8At p 0 = 1 ∧ s.lcu.queue.length = 32) ∧ Meets 0x33 (fun _ _ => True) :=
  ⟨meets up [0] (by decide) (by decide), meets up [9] (by decide) (by decide),
    meets { up with lcu := { up.lcu with queue := [record] } } [8] (by decide) (by decide),
    meets { up with lcu := { up.lcu with queue := List.replicate 32 record } } [1] (by decide) (by decide),
    meets up [] (by decide) trivial⟩

theorem test_witness_ReportRequestsConfigureAndGrant : Meets 0x38 (fun _ p => byteAt p 0 &&& 0x89 ≠ 0)
    ∧ Meets 0x38 (fun _ p => byteAt p 1 ≠ 0)
    ∧ Meets 0x38 (fun _ p => byteAt p 0 &&& 0x89 = 0 ∧ byteAt p 1 = 0 ∧ (byteAt p 0).getLsbD 6 = true ∧ u16At p 2 = 1)
    ∧ Meets 0x38 (fun s p => byteAt p 0 &&& 0x89 = 0 ∧ byteAt p 1 = 0 ∧ s.rsc.fresh ≠ [])
    ∧ Meets 0x39 (fun _ p => 15 < u8At p 0) ∧ Meets 0x39 (fun _ p => u8At p 0 = 15) :=
  ⟨meets up [0x80, 0, 0, 0] (by decide) (by decide), meets up [0x76, 1, 0, 0] (by decide) (by decide),
    meets up [0x76, 0, 1, 0] (by decide) (by decide),
    meets { up with rsc := up.rsc.addFault .quadError } [0x02, 0, 0, 0] (by decide) (by decide), meets up [16] (by decide) (by decide),
    meets up [15] (by decide) (by decide)⟩

/-! ## What every step keeps -/

/-- For AnglesAndErrorCountsStayInRange, BanksStayWellFormed, LongOperationsStayCounted, StalledMeansAnEmptyHistory and
LinkQueuesStayBounded: the part after reset is sound, and with a command waiting its step answers a next state. -/
theorem test_witness_invariantsOfEveryStep :
    State.reset.axisSound ∧ State.reset.checksSound ∧ State.reset.banksSound ∧ State.reset.operationsSound
    ∧ State.reset.tsu.sound ∧ State.reset.lkp.sound ∧ 8 ≤ State.reset.pcu.axis.cpr
    ∧ (∃ t, step { State.reset with pending := [.startupIdleEnd] } = .next t) := by
  refine ⟨?_, ?_, ?_, ?_, ?_, ?_, by decide, ⟨_, rfl⟩⟩
  · refine ⟨by decide, by decide, by decide, trivial, ?_, ?_⟩
    · intro c h
      cases h
    intro i m h
    have hn : ∀ i, (State.reset.tev.tracks.get i).memory = none := by decide
    rw [hn i] at h
    cases h
  · refine ⟨by decide, by decide, trivial⟩
  · refine ⟨⟨?_, by decide, by decide⟩, ⟨?_, by decide, by decide⟩⟩ <;> unfold TrackTable.sound <;> decide
  · unfold State.operationsSound; decide
  · unfold Tsu.sound; decide
  · refine ⟨by decide, by decide, by decide, by decide, trivial, by decide, by decide⟩

/-- For LongOperationsStayCounted (tickets), PinsShowTheirLevels, CaptureQueueAndReportStateStaySound and
ActiveChangesAtASwapAlone: the remaining parts at reset, a command that is no reset, and a pending commit. -/
theorem test_witness_invariantsOfTheOtherBlocks : State.reset.ticketsSound ∧ State.reset.outputsSound
    ∧ State.reset.lcu.sound ∧ State.reset.rsc.sound
    ∧ (∃ t, exec .identify up = .next t) ∧ ¬up.clearedBy .identify ∧ (committing .atIndex up).bsc.commit ≠ none
    ∧ (up.sample.moved = true → up.speedDue = false) := by
  refine ⟨?_, ?_, ?_, ?_, ⟨_, rfl⟩, ?_, by decide, by decide⟩
  · refine ⟨by decide, by decide, by decide, .singleton _, fun i c h => ?_⟩
    cases i <;> cases h
  · unfold State.outputsSound Track.sound; decide
  · refine ⟨by decide, by decide, ?_⟩; unfold Latch.sound; decide
  · unfold Rsc.sound; decide
  · rintro (h | ⟨_, _, _, h | h | h⟩)
    · cases h
    · exact absurd h.1 (by simp)
    · exact absurd h.1 (by simp)
    · exact absurd h.1 (by simp)

/-- For LongOperationsStayCounted: an older completion and one of this sample waiting, a seek in flight, and the counter
past its wrap. -/
theorem test_witness_LongOperationsStayCounted :
    (let s : State := { inSync (.seeking { seekRec with ticket := 2 }) up with
        bsc := { commit := none, nextTicket := 3 }
        rsc := { up.rsc with
          inFlight := 1, waiting := [{ completion with ticket := 255 }, { completion with ticket := 1 }], recent := 1 } }
     s.operationsSound ∧ s.ticketsSound) := by
  refine ⟨by unfold State.operationsSound; decide, by decide, by decide, by decide, ?_, fun i c h => ?_⟩
  · show List.IsChain _ ([1, 2, 3] : List Byte)
    decide
  · match i, h with
    | 0, h => cases h; exact ⟨3, by decide⟩
    | 1, h => cases h; exact ⟨2, by decide⟩
    | n + 2, h => cases h

/-! ## One step on a small state -/

/-- From reset: the end of the start-up idle time, the idle line, and IDENTIFY's first byte. -/
theorem test_startup : nextHas (step { State.reset with pending := [.startupIdleEnd] }) (fun t =>
    t.rsc.hello.isNone && decide (t.lkp.tx = .sending { frame := mkFrame 0 0x70 [0, 1, 0, 0, 0x08, 0x0C], resetOk := false })
      && t.pending.isEmpty) = true := by decide +kernel

theorem test_identifyReply : nextHas (exec .identify (offered up 0x01 [])) (fun t =>
    decide (t.lkp.tx = .sending { resetOk := false, frame :=
      (mkFrame 1 0x81 [0, 0x41, 0x2E, 0x08, 0x0C, 1, 8, 4, 16, 64, 32, 0, 0, 0]) })) = true := by decide +kernel

/-- A step forward at the last angle carries into the revolution count and starts the TSU. -/
theorem test_stepWraps : nextHas (exec (.step (.take .beforeLoss)) (atPos 0 4095 stepping)) (fun t =>
    decide (t.pcu.pos = ⟨1, 0⟩) && !t.tsu.stalled && decide (t.tsu.lastDir = some .fwd) && !t.sample.inSample) = true := by
  decide

/-- OUTPUT_ENABLE after the TSU's part of a step finds the step taken, and evaluates at its angle (R48, log 34); before
any part of the step it finds the step due and leaves it so. -/
theorem test_requestPairsSpeedAndAngle : nextHas (exec .outputEnable (offered steppingAhead 0x28 [1])) (fun t =>
      t.pcu.pos.angle == 1 && t.stepDue.isNone && t.tev.enable) = true
    ∧ nextHas (exec .outputEnable (offered stepping 0x28 [1])) (fun t =>
      t.pcu.pos.angle == 0 && t.stepDue.isSome && t.tev.enable) = true := by decide +kernel

/-- AXIS_GET finds the step of the sample, which it ends (R12). -/
theorem test_axisGetFindsTheStep : nextHas (exec .axisGet (offered stepping 0x08 [])) (fun t =>
    decide (t.pcu.pos = ⟨0, 1⟩) && !t.sample.inSample) = true := by decide +kernel

/-- A step kept no arrival for a commit accepted after it: the index event does not swap (R110, R199). -/
theorem test_noArrivalBeforeTheCommit :
    nextHas (exec (.step (.take .afterIndex)) (inSync (.locked refRec) (atPos 0 6 steppingIndexed))) (fun t =>
      decide (t.sample.arrival = none) && t.sample.inSample) = true
    ∧ nextHas (exec (.indexEvent .eventFirst) (committing (.atPosition 7) (inSync (.locked refRec) (atPos 0 7 indexing))))
      (fun t => t.bsc.commit.isSome) = true := by decide +kernel

/-- An event that the sample has not formed changes nothing. -/
theorem test_eventNotFormed : nextHas (exec (.indexEvent .lossFirst) up) (fun t => decide (t = up)) = true := by decide

/-- SAMPLE from reset: the first sample carries the timebase 0. -/
theorem test_firstSample : nextHas (exec (.sample ⟨true, false, false, Quad.all false⟩) State.reset) (fun t =>
    decide (t.tsu.timebase = 0) && t.tsu.ticking && decide (t.qdu.a = ⟨1, false⟩) && decide (t.qdu.settling = some 3))
    = true := by decide

end Sys2Proof.Tests
end

section
/-! SUPPORT. The input filters (R1, R2): what one sample does to a filter on either level, that its count stays within
the length, and what a sample and a reset do to the three encoder filters. -/

namespace Sys2Proof.Machine

/-! ## One sample of a filter -/

/-- A high sample, the count being within the length: it rises by one up to the length (R1). -/
theorem Filter.update_true_of_le {len : Nat} {f : Filter} (h : f.count ≤ len) :
    f.update len true =
      { count := if f.count = len then f.count else f.count + 1
        level := if (if f.count = len then f.count else f.count + 1) = len then true else f.level } := by
  simp [Filter.update, Nat.min_eq_left h]

/-- A low sample, the count being within the length: it falls by one down to 0 (R1). -/
theorem Filter.update_false_of_le {len : Nat} {f : Filter} (h : f.count ≤ len) :
    f.update len false = { count := f.count - 1, level := if f.count - 1 = 0 then false else f.level } := by
  simp [Filter.update, Nat.min_eq_left h]

/-- A count above the length is clamped to it before the sample counts (R2). -/
theorem Filter.update_of_lt {len : Nat} {f : Filter} (level : Bool) (h : len < f.count) :
    f.update len level = Filter.update len level { f with count := len } := by
  simp [Filter.update, Nat.min_eq_right h.le]

/-- The rails of R1, both ways: one step up to the length, one step down to 0, and the level follows at either end. -/
theorem Filter.update_rails {len : Nat} {f : Filter} (h : f.count ≤ len) :
    (f.update len true).count = (if f.count = len then f.count else f.count + 1)
      ∧ (f.update len true).level = (if (f.update len true).count = len then true else f.level)
      ∧ (f.update len false).count = (if f.count = 0 then 0 else f.count - 1)
      ∧ (f.update len false).level = (if (f.update len false).count = 0 then false else f.level) := by
  rw [Filter.update_true_of_le h, Filter.update_false_of_le h]
  refine ⟨rfl, rfl, ?_, rfl⟩
  show f.count - 1 = _
  split <;> omega

/-- From a count within the length no sample leads out of it. -/
theorem Filter.update_count_le_of_le {len : Nat} {f : Filter} (level : Bool) (h : f.count ≤ len) :
    (f.update len level).count ≤ len := by
  cases level with
  | true =>
    rw [Filter.update_true_of_le h]
    show (if f.count = len then f.count else f.count + 1) ≤ len
    split <;> omega
  | false =>
    rw [Filter.update_false_of_le h]
    exact (Nat.sub_le _ _).trans h

/-- After a sample the count is within the length, wherever it stood before. -/
theorem Filter.update_count_le (len : Nat) (level : Bool) (f : Filter) : (f.update len level).count ≤ len := by
  rcases Nat.lt_or_ge len f.count with hlt | hle
  · rw [Filter.update_of_lt level hlt]
    exact Filter.update_count_le_of_le level (Nat.le_refl len)
  · exact Filter.update_count_le_of_le level hle

/-- A filter of length 0 passes the sampled level on. -/
theorem Filter.update_zero (level : Bool) (f : Filter) : f.update 0 level = { count := 0, level := level } := by
  cases level <;> simp [Filter.update]

/-! ## The encoder filters at a sample -/

@[simp] theorem Qdu.sample_a (len : Nat) (lv : Levels) (q : Qdu) : (q.sample len lv).a = q.a.update len lv.qa := by
  unfold Qdu.sample
  split <;> rfl

@[simp] theorem Qdu.sample_b (len : Nat) (lv : Levels) (q : Qdu) : (q.sample len lv).b = q.b.update len lv.qb := by
  unfold Qdu.sample
  split <;> rfl

@[simp] theorem Qdu.sample_z (len : Nat) (lv : Levels) (q : Qdu) : (q.sample len lv).z = q.z.update len lv.qz := by
  unfold Qdu.sample
  split <;> rfl

@[simp] theorem State.sampleInputs_qdu (lv : Levels) (s : State) :
    (s.sampleInputs lv).qdu = s.qdu.sample s.pcu.axis.filterLen lv := rfl

@[simp] theorem State.takeSample_qdu (lv : Levels) (s : State) :
    (s.takeSample lv).qdu = s.closeSample.qdu.sample s.pcu.axis.filterLen lv := by
  unfold State.takeSample
  simp

/-- A command of a part whose NRST is high acts. -/
theorem live_of_high {f : State → State} {s : State} (h : s.nrstLow = false) : live f s = .next (f s) := by
  simp [live, h]

/-- SAMPLE on a part whose NRST is high takes the sample. -/
theorem exec_sample {s : State} (lv : Levels) (h : s.nrstLow = false) :
    exec (.sample lv) s = .next (s.takeSample lv) := live_of_high h

/-! ## The commands that clear the part -/

/-- Every reset, and NRST low, leaves the reset state of some cause, count and straps, with NRST at either level
(R181). -/
theorem exec_of_clearedBy {s : State} {c : Instr} (h : s.clearedBy c) :
    ∃ cause count straps low, exec c s = .next { s.resetTo cause count straps with nrstLow := low } := by
  obtain rfl | ⟨cause, count, straps, ⟨rfl, -, -⟩ | ⟨rfl, -, -⟩ | ⟨rfl, -, -, hhigh, htx⟩⟩ := h
  · exact ⟨.pin, s.lkp.resetCount, s.lkp.straps, true, rfl⟩
  · exact ⟨.powerOn, 0, straps, false, rfl⟩
  · exact ⟨.pin, s.lkp.resetCount + 1, straps, false, rfl⟩
  · refine ⟨.request, s.lkp.resetCount + 1, straps, false, ?_⟩
    calc exec (.requestReset straps) s
        = .next (if s.lkp.tx.endsInReset then s.resetTo .request (s.lkp.resetCount + 1) straps else s) :=
          live_of_high hhigh
      _ = .next (s.resetTo .request (s.lkp.resetCount + 1) straps) := by rw [if_pos htx]

/-- Settles O8. The filter's own clauses are those of one sample, from a count within the length and from one above it;
closing the sample before (R9) and settling the new one leave the encoder filters alone. -/
theorem inputFiltersCountTheSamples : Obligations.InputFiltersCountTheSamples := by
  refine ⟨fun _ _ => Filter.update_rails, Filter.update_count_le, Filter.update_zero,
    fun _ level _ => Filter.update_of_lt level, ?sampled, ?cleared⟩
  case sampled =>
    intro s lv hhigh
    refine ⟨s.takeSample lv, exec_sample lv hhigh, ?_, ?_, ?_⟩ <;> simp
  case cleared =>
    intro s c hc
    obtain ⟨cause, count, straps, low, hexec⟩ := exec_of_clearedBy hc
    exact ⟨_, hexec, rfl, rfl, rfl⟩

end Sys2Proof.Machine
end

section
/-! SUPPORT. The field's blocks after a reset (R21, R41, R58, R81, R104, R120, R140): what each track and latch holds, a first
evaluation that finds the outputs disabled, and a closed sample, which offers no event. -/

namespace Sys2Proof.Machine

/-! ## Each track and latch after a reset -/

/-- Every track of both banks is empty after a reset (R81). -/
theorem Bank.reset_get (i : Fin 8) : Bank.reset.tracks.get i = { windows := [], leadUs := 0, hysteresis := 0 } :=
  Oct.get_all _ i

theorem Tev.reset_get (i : Fin 8) : Tev.reset.tracks.get i = Track.reset := Oct.get_all _ i

theorem Lcu.reset_get (n : Fin 4) : Lcu.reset.latches.get n = Latch.reset := Quad.get_all _ n

/-! ## An evaluation with the outputs disabled -/

/-- The first row of the table of section 5.6: while the outputs are disabled the level is 0, whatever the mode and the
inhibits say (R90). -/
theorem trackLevel_of_disabled {x : EvalInputs} (held : Bool) (t : Track) (h : x.enable = false) :
    trackLevel x held t = false := by
  simp [trackLevel, h]

section
variable {x : EvalInputs} (tab : TrackTable) (t : Track)

theorem Track.evaluate_level_of_disabled (h : x.enable = false) : (t.evaluate x tab).level = false :=
  trackLevel_of_disabled _ _ h

/-- The pin of a disabled track shows the level 0 in the track's polarity (R95). -/
theorem Track.evaluate_pin_of_disabled (h : x.enable = false) : (t.evaluate x tab).pin = pinLevel t.polarity false := by
  calc (t.evaluate x tab).pin
      = pinLevel (t.hysteresis x tab).polarity (t.evaluate x tab).level := rfl
    _ = pinLevel t.polarity false := by rw [t.hysteresis_polarity, t.evaluate_level_of_disabled tab h]

/-- A disabled track whose level was 0 already does not switch (R96). -/
theorem Track.evaluate_switches_of_disabled (h : x.enable = false) (hlevel : t.level = false) :
    (t.evaluate x tab).switches = t.switches := by
  have hsame : (t.evaluate x tab).level = (t.hysteresis x tab).level := by
    rw [t.evaluate_level_of_disabled tab h, t.hysteresis_level, hlevel]
  calc (t.evaluate x tab).switches
      = if (t.evaluate x tab).level = (t.hysteresis x tab).level then (t.hysteresis x tab).switches
          else (t.hysteresis x tab).switches + 1 := rfl
    _ = t.switches := by rw [if_pos hsame, t.hysteresis_switches]

end

theorem State.evaluate_track (s : State) (i : Fin 8) :
    s.evaluate.tev.tracks.get i = (s.tev.tracks.get i).evaluate s.evalInputs (s.cts.active.tracks.get i) :=
  Oct.get_zip _ _ _ i

/-- The first evaluation after a reset leaves every level and line at 0 and counts no switch (R104). -/
theorem State.evaluate_track_of_reset {s : State} (h : s.tev = Tev.reset) (i : Fin 8) :
    (s.evaluate.tev.tracks.get i).level = false ∧ (s.evaluate.tev.tracks.get i).pin = false
      ∧ (s.evaluate.tev.tracks.get i).switches = 0 := by
  have hdisabled : s.evalInputs.enable = false := congrArg Tev.enable h
  have htrack : s.tev.tracks.get i = Track.reset := by rw [h, Tev.reset_get]
  rw [s.evaluate_track, htrack]
  exact ⟨Track.evaluate_level_of_disabled _ _ hdisabled, Track.evaluate_pin_of_disabled _ _ hdisabled,
    Track.evaluate_switches_of_disabled _ _ hdisabled rfl⟩

/-! ## A closed sample offers no event -/

section
variable {s : State} (h : s.sample.inSample = false)
include h

theorem State.stepDue_of_closed : s.stepDue = none := by
  unfold State.stepDue
  split
  · simp [h]
  · rfl
  · rfl

theorem State.quadDue_of_closed : s.quadDue = false := by simp [State.quadDue, h]

theorem State.indexFormed_of_closed : s.indexFormed = false := by
  unfold State.indexFormed
  split
  · simp [h]
  · rfl

theorem State.edgeDue_of_closed : s.edgeDue = none := by simp [State.edgeDue, h]

theorem State.refDue_of_closed (n : Fin 4) : s.refDue n = false := by simp [State.refDue, h]

end

/-! ## Every reset -/

/-- Settles O3. Every reset, and NRST low, leaves the blocks of `State.reset`; what the tables say is then read off block
by block, the first evaluation from the disabled outputs, and the dropped samples from the closed sample. -/
theorem resetsClearTheBlocksOfTheField : Obligations.ResetsClearTheBlocksOfTheField := by
  refine ⟨?tables, ?settling⟩
  case tables =>
    intro s c hc
    obtain ⟨cause, count, straps, low, hexec⟩ := exec_of_clearedBy hc
    exact ⟨_, hexec, rfl, rfl, fun i => ⟨Bank.reset_get i, Bank.reset_get i⟩, rfl, rfl, rfl, rfl, rfl, rfl,
      fun i => ⟨Tev.reset_get i, State.evaluate_track_of_reset rfl i⟩, rfl, rfl, rfl, rfl, rfl, rfl⟩
  case settling =>
    intro s c hc
    obtain ⟨cause, count, straps, low, hexec⟩ := exec_of_clearedBy hc
    exact ⟨_, hexec, rfl, rfl, Lcu.reset_get, rfl, rfl, rfl, rfl, rfl, rfl, State.stepDue_of_closed rfl,
      State.quadDue_of_closed rfl, State.indexFormed_of_closed rfl, State.edgeDue_of_closed rfl, State.refDue_of_closed rfl⟩

end Sys2Proof.Machine
end

section
/-! SUPPORT. WINDOW_REMOVE, TRACK_CLEAR, TRACK_PARAM_SET and SHADOW_REVERT (R68, R69, R73 to R76): what each owner answers
at each of its checks, and the window with a key in a list that is taken apart around it. -/

namespace Sys2Proof.Machine

/-! ## The request of a row, with its owner's effect beside the state before it -/

/-- An owner finds the request taken from the inbound queue; its effect may be stated beside the queue as it was. -/
theorem carriedOut.ofTakenEffect {s u t : State} {r : Request} {rest : List Request} {status : Byte} {fields : List Byte}
    (h : carriedOut s (u.takeRequest rest) t r rest status fields) : carriedOut s u t r rest status fields :=
  h.congr rfl rfl rfl rfl rfl rfl rfl rfl rfl rfl rfl ⟨rfl, rfl, rfl, rfl, rfl, rfl, rfl, rfl, id⟩

/-- The execution of a request of one kind, by what its owner answers: a refusal, or an effect that leaves the link
alone. -/
theorem State.executeKind_answers {s : State} {kind : Byte} {r : Request} {rest : List Request} (owner : Owner)
    (ho : s.offers kind r rest) :
    ∃ t, live (State.executeKind kind owner) s = .next t
      ∧ (∀ st, owner (s.takeRequest rest) r.payload = refuse st (s.takeRequest rest) → refused s t r rest st.code)
      ∧ ∀ (u : State) st body, u.lkp = s.lkp →
        owner (s.takeRequest rest) r.payload = carryOut st body (u.takeRequest rest) →
        carriedOut s u t r rest st.code body := by
  obtain ⟨t, hexec, hrefused, hdone⟩ := State.executeKind_run owner ho
  refine ⟨t, hexec, hrefused, fun u st body hlink howner => ?_⟩
  have hlinkTaken : (u.takeRequest rest).lkp = (s.takeRequest rest).lkp := by simp [State.takeRequest, hlink]
  exact (hdone (u.takeRequest rest) ⟨st, body⟩ howner hlinkTaken).ofTakenEffect

/-! ## What the owners check -/

theorem trackAt_of_lt {p : List Byte} {n : Nat} (h : 7 < u8At p n) : trackAt p n = none := by
  simp [trackAt, Nat.not_lt.mpr h]

theorem trackAt_of_eq {p : List Byte} {n : Nat} {i : Fin 8} (h : u8At p n = i.val) : trackAt p n = some i := by
  simp [trackAt, h]

theorem State.shadowLocked_of_ne_none {s : State} (h : s.bsc.commit ≠ none) : s.shadowLocked = true :=
  Option.isSome_iff_ne_none.mpr h

theorem State.shadowLocked_of_none {s : State} (h : s.bsc.commit = none) : s.shadowLocked = false := by
  simp [State.shadowLocked, h]

/-! ## The window with a key -/

section
variable {u : Window} {below above : List Window} {on : Nat} (hon : u.on = on) (hbelow : ∀ x ∈ below, x.on ≠ u.on)
include hon hbelow

/-- The window with the key is the first whose key it is. -/
theorem Window.find?_on_of_split : (below ++ u :: above).find? (fun x => decide (x.on = on)) = some u := by
  rw [List.find?_eq_some_iff_append]
  exact ⟨by simpa using hon, below, above, rfl, fun x hx => by simpa [hon] using hbelow x hx⟩

/-- Its index is the number of windows below it. -/
theorem Window.findIdx?_on_of_split :
    (below ++ u :: above).findIdx? (fun x => decide (x.on = on)) = some below.length := by
  have hnone : below.findIdx? (fun x => decide (x.on = on)) = none :=
    List.findIdx?_eq_none_iff.mpr fun x hx => by simpa [hon] using hbelow x hx
  rw [List.findIdx?_append, hnone]
  simp [List.findIdx?_cons, hon]

end

/-- The list that WINDOW_REMOVE leaves is the one around the window that it removes (R73). -/
theorem State.removeWindow_of_split {s : State} {i : Fin 8} {u : Window} {below above : List Window}
    (h : (s.cts.shadow.tracks.get i).windows = below ++ u :: above) :
    s.removeWindow i below.length
      = s.editShadow i { s.cts.shadow.tracks.get i with windows := below ++ above } (s.cts.shadow.pool - 1) := by
  simp [State.removeWindow, h, List.eraseIdx_append_of_length_le]

/-! ## WINDOW_REMOVE (R73) -/

section
variable {s : State} {p : List Byte} {i : Fin 8}

theorem ownWindowRemove_of_range (h : 7 < u8At p 0) : ownWindowRemove s p = refuse .range s := by
  simp [ownWindowRemove, trackAt_of_lt h]

theorem ownWindowRemove_of_reserved (hi : u8At p 0 = i.val) (hzero : byteAt p 1 ≠ 0) :
    ownWindowRemove s p = refuse .badValue s := by
  simp only [ownWindowRemove, trackAt_of_eq hi, if_pos hzero]

theorem ownWindowRemove_of_locked (hi : u8At p 0 = i.val) (hzero : byteAt p 1 = 0) (hc : s.bsc.commit ≠ none) :
    ownWindowRemove s p = refuse .locked s := by
  simp [ownWindowRemove, trackAt_of_eq hi, hzero, State.shadowLocked_of_ne_none hc]

theorem ownWindowRemove_of_noKey (hi : u8At p 0 = i.val) (hzero : byteAt p 1 = 0) (hc : s.bsc.commit = none)
    (hkey : ∀ u ∈ (s.cts.shadow.tracks.get i).windows, u.on ≠ u16At p 2) :
    ownWindowRemove s p = refuse .notFound s := by
  have hnone : (s.cts.shadow.tracks.get i).windows.findIdx? (fun u => decide (u.on = u16At p 2)) = none :=
    List.findIdx?_eq_none_iff.mpr fun u hu => by simpa using hkey u hu
  simp [ownWindowRemove, trackAt_of_eq hi, hzero, State.shadowLocked_of_none hc, hnone]

theorem ownWindowRemove_of_key {u : Window} {below above : List Window} (hi : u8At p 0 = i.val) (hzero : byteAt p 1 = 0)
    (hc : s.bsc.commit = none) (hsplit : (s.cts.shadow.tracks.get i).windows = below ++ u :: above)
    (hon : u.on = u16At p 2) (hbelow : ∀ x ∈ below, x.on ≠ u.on) :
    ownWindowRemove s p = carryOut .ok (le16 u.off ++ [u.dir.code] ++ le8 below.length)
      (s.editShadow i { s.cts.shadow.tracks.get i with windows := below ++ above } (s.cts.shadow.pool - 1)) := by
  rw [← State.removeWindow_of_split hsplit]
  simp [ownWindowRemove, trackAt_of_eq hi, hzero, State.shadowLocked_of_none hc, hsplit,
    Window.find?_on_of_split hon hbelow, Window.findIdx?_on_of_split hon hbelow]

/-! ## TRACK_CLEAR (R74) -/

theorem ownTrackClear_of_range (h : 7 < u8At p 0) : ownTrackClear s p = refuse .range s := by
  simp [ownTrackClear, trackAt_of_lt h]

theorem ownTrackClear_of_locked (hi : u8At p 0 = i.val) (hc : s.bsc.commit ≠ none) :
    ownTrackClear s p = refuse .locked s := by
  simp [ownTrackClear, trackAt_of_eq hi, State.shadowLocked_of_ne_none hc]

theorem ownTrackClear_of_unlocked (hi : u8At p 0 = i.val) (hc : s.bsc.commit = none) :
    ownTrackClear s p = carryOut .ok (le8 (s.cts.shadow.tracks.get i).windows.length) (s.clearTrack i) := by
  simp [ownTrackClear, trackAt_of_eq hi, State.shadowLocked_of_none hc]

/-! ## TRACK_PARAM_SET (R75) -/

theorem ownTrackParamSet_of_range (h : 7 < u8At p 0 ∨ 255 < u16At p 4) : ownTrackParamSet s p = refuse .range s := by
  rcases Nat.lt_or_ge 7 (u8At p 0) with htrack | htrack
  · simp [ownTrackParamSet, trackAt_of_lt htrack]
  · have hi : u8At p 0 = (⟨u8At p 0, Nat.lt_succ_of_le htrack⟩ : Fin 8).val := rfl
    have hwide : 255 < u16At p 4 := h.resolve_left (Nat.not_lt.mpr htrack)
    simp [ownTrackParamSet, trackAt_of_eq hi, hwide]

theorem ownTrackParamSet_of_reserved (hi : u8At p 0 = i.val) (hw : u16At p 4 ≤ 255) (hzero : byteAt p 1 ≠ 0) :
    ownTrackParamSet s p = refuse .badValue s := by
  simp only [ownTrackParamSet, trackAt_of_eq hi, if_neg (Nat.not_lt.mpr hw), if_pos hzero]

theorem ownTrackParamSet_of_locked (hi : u8At p 0 = i.val) (hw : u16At p 4 ≤ 255) (hzero : byteAt p 1 = 0)
    (hc : s.bsc.commit ≠ none) : ownTrackParamSet s p = refuse .locked s := by
  simp [ownTrackParamSet, trackAt_of_eq hi, Nat.not_lt.mpr hw, hzero, State.shadowLocked_of_ne_none hc]

theorem ownTrackParamSet_of_unlocked (hi : u8At p 0 = i.val) (hw : u16At p 4 ≤ 255) (hzero : byteAt p 1 = 0)
    (hc : s.bsc.commit = none) :
    ownTrackParamSet s p = carryOut .ok [] (s.setParams i (u16At p 2) (u16At p 4)) := by
  simp [ownTrackParamSet, trackAt_of_eq hi, Nat.not_lt.mpr hw, hzero, State.shadowLocked_of_none hc]

/-! ## SHADOW_REVERT (R76) -/

theorem ownShadowRevert_of_locked (hc : s.bsc.commit ≠ none) : ownShadowRevert s p = refuse .locked s := by
  simp [ownShadowRevert, State.shadowLocked_of_ne_none hc]

theorem ownShadowRevert_of_unlocked (hc : s.bsc.commit = none) :
    ownShadowRevert s p = carryOut .ok (le8 s.cts.active.pool) s.revertShadow := by
  simp [ownShadowRevert, State.shadowLocked_of_none hc]

end

/-! ## The four requests -/

/-- Settles O45. For each request, the state that its row answers, then one answer of its owner per clause: the checks in
their order, and past the last of them the one edit of SHADOW, which leaves the link to the reply. -/
theorem removalsParametersAndRevertActOnShadow : Obligations.RemovalsParametersAndRevertActOnShadow := by
  refine ⟨fun s r rest => ⟨?windowRemove, ?trackClear⟩, fun s r rest => ⟨?trackParamSet, ?shadowRevert⟩⟩
  case windowRemove =>
    intro ho
    obtain ⟨t, hexec, hrefused, hdone⟩ := State.executeKind_answers ownWindowRemove ho
    refine ⟨t, hexec, fun h => hrefused .range (ownWindowRemove_of_range h), ?_⟩
    rintro i tab hi rfl
    refine ⟨fun hzero => hrefused .badValue (ownWindowRemove_of_reserved hi hzero),
      fun hzero hc => hrefused .locked (ownWindowRemove_of_locked hi hzero hc),
      fun hzero hc hkey => hrefused .notFound (ownWindowRemove_of_noKey hi hzero hc hkey), ?_⟩
    intro u below above hzero hc hsplit hon hbelow
    exact hdone _ .ok _ rfl (ownWindowRemove_of_key hi hzero hc hsplit hon hbelow)
  case trackClear =>
    intro ho
    obtain ⟨t, hexec, hrefused, hdone⟩ := State.executeKind_answers ownTrackClear ho
    refine ⟨t, hexec, fun h => hrefused .range (ownTrackClear_of_range h), ?_⟩
    rintro i tab hi rfl
    exact ⟨fun hc => hrefused .locked (ownTrackClear_of_locked hi hc),
      fun hc => hdone _ .ok _ rfl (ownTrackClear_of_unlocked hi hc)⟩
  case trackParamSet =>
    intro ho
    obtain ⟨t, hexec, hrefused, hdone⟩ := State.executeKind_answers ownTrackParamSet ho
    refine ⟨t, hexec, fun h => hrefused .range (ownTrackParamSet_of_range h), fun i hi hw => ?_⟩
    exact ⟨fun hzero => hrefused .badValue (ownTrackParamSet_of_reserved hi hw hzero),
      fun hzero hc => hrefused .locked (ownTrackParamSet_of_locked hi hw hzero hc),
      fun hzero hc => hdone _ .ok _ rfl (ownTrackParamSet_of_unlocked hi hw hzero hc)⟩
  case shadowRevert =>
    intro ho
    obtain ⟨t, hexec, hrefused, hdone⟩ := State.executeKind_answers ownShadowRevert ho
    exact ⟨t, hexec, fun hc => hrefused .locked (ownShadowRevert_of_locked hc),
      fun hc => hdone _ .ok _ rfl (ownShadowRevert_of_unlocked hc)⟩

end Sys2Proof.Machine
end

section
/-! SUPPORT. From evaluated level to line (R90 to R96): the inhibit condition and its first reason, one lemma per row of the
table of section 5.6, and each field that an evaluation writes to a track. -/

namespace Sys2Proof.Machine

/-! ## The inhibit condition and its first reason (R92) -/

section
variable {x : EvalInputs} {t : Track}

theorem inhibitCause_of_notLocked (hsync : x.sync ≠ .locked) : inhibitCause x t = some .inhibitedSync := if_pos hsync

theorem inhibitCause_of_overspeed (hsync : x.sync = .locked) (hspeed : x.overspeed = true) :
    inhibitCause x t = some .inhibitedOverspeed := by
  simp [inhibitCause, hsync, hspeed]

theorem inhibitCause_of_stalled (hsync : x.sync = .locked) (hspeed : x.overspeed = false)
    (hstall : t.stallInhibit = true ∧ x.stalled = true) : inhibitCause x t = some .inhibitedStall := by
  simp [inhibitCause, hsync, hspeed, hstall]

theorem inhibitCause_of_running (hsync : x.sync = .locked) (hspeed : x.overspeed = false)
    (hstall : ¬ (t.stallInhibit = true ∧ x.stalled = true)) : inhibitCause x t = none := by
  simpa [inhibitCause, hsync, hspeed] using hstall

/-- A reason is found exactly when the inhibit condition holds. -/
theorem inhibitCause_isSome_iff : (inhibitCause x t).isSome = true ↔
    x.sync ≠ .locked ∨ x.overspeed = true ∨ (t.stallInhibit = true ∧ x.stalled = true) := by
  by_cases hsync : x.sync = .locked
  · cases hspeed : x.overspeed with
    | true => simp [inhibitCause_of_overspeed hsync hspeed]
    | false =>
      by_cases hstall : t.stallInhibit = true ∧ x.stalled = true
      · simp [inhibitCause_of_stalled hsync hspeed hstall, hstall]
      · simp [inhibitCause_of_running hsync hspeed hstall, hsync, hstall]
  · simp [inhibitCause_of_notLocked hsync, hsync]

/-- Of a track, the inhibits read `stallInhibit` alone. -/
theorem inhibitCause_congr {u : Track} (h : u.stallInhibit = t.stallInhibit) : inhibitCause x u = inhibitCause x t := by
  simp [inhibitCause, h]

/-! ## The rows of the table of section 5.6 (R90 to R94) -/

theorem trackCause_of_disabled (h : x.enable = false) : trackCause x t = .disabled := by simp [trackCause, h]

theorem trackRow_of_forceOn (held : Bool) (h : x.enable = true) (hmode : t.mode = .forceOn) :
    trackLevel x held t = true ∧ trackCause x t = .forced := by
  simp [trackLevel, trackCause, h, hmode]

theorem trackRow_of_forceOff (held : Bool) (h : x.enable = true) (hmode : t.mode = .forceOff) :
    trackLevel x held t = false ∧ trackCause x t = .forced := by
  simp [trackLevel, trackCause, h, hmode]

theorem trackLevel_of_inhibited (held : Bool) (h : x.enable = true) (hmode : t.mode = .normal)
    (hinhibited : (inhibitCause x t).isSome = true) : trackLevel x held t = safeLevel t.safe held := by
  simp [trackLevel, h, hmode, hinhibited]

/-- The cause of an inhibited track is the first reason that applies (R94). -/
theorem trackCause_of_inhibitCause {c : TrackCause} (h : x.enable = true) (hmode : t.mode = .normal)
    (hreason : inhibitCause x t = some c) : trackCause x t = c := by
  simp [trackCause, h, hmode, hreason]

theorem trackRow_of_evaluated (held : Bool) (h : x.enable = true) (hmode : t.mode = .normal)
    (hfree : (inhibitCause x t).isSome = false) :
    trackLevel x held t = t.evaluated ∧ trackCause x t = .evaluated := by
  simp [trackLevel, trackCause, h, hmode, Option.not_isSome_iff_eq_none.mp (Bool.eq_false_iff.mp hfree)]

end

/-! ## What an evaluation writes to a track (R92 to R96) -/

section
variable (x : EvalInputs) (tab : TrackTable) (t : Track)

theorem Track.evaluate_inhibited : (t.evaluate x tab).inhibited = (inhibitCause x t).isSome :=
  congrArg Option.isSome (inhibitCause_congr (t.hysteresis_stallInhibit x tab))

/-- The held level keeps the level of the evaluation before the inhibition began, and is 0 outside one (R93). -/
theorem Track.evaluate_held : (t.evaluate x tab).held =
    if (t.evaluate x tab).inhibited then (if t.inhibited then t.held else t.level) else false := by
  calc (t.evaluate x tab).held
      = (t.hysteresis x tab).nextHeld (t.evaluate x tab).inhibited := rfl
    _ = _ := by rw [Track.nextHeld, t.hysteresis_inhibited, t.hysteresis_held, t.hysteresis_level]

/-- The level is that of the evaluated track's own row, with the held level just formed. -/
theorem Track.evaluate_level :
    (t.evaluate x tab).level = trackLevel x (t.evaluate x tab).held (t.evaluate x tab) := rfl

theorem Track.evaluate_pin : (t.evaluate x tab).pin = pinLevel t.polarity (t.evaluate x tab).level := by
  calc (t.evaluate x tab).pin
      = pinLevel (t.hysteresis x tab).polarity (t.evaluate x tab).level := rfl
    _ = _ := by rw [t.hysteresis_polarity]

variable {x tab t}

/-- A track whose level stays keeps its switching record (R96). -/
theorem Track.evaluate_record_of_level_eq (h : (t.evaluate x tab).level = t.level) :
    (t.evaluate x tab).switches = t.switches ∧ (t.evaluate x tab).lastSwitch = t.lastSwitch := by
  have hsame : (t.evaluate x tab).level = (t.hysteresis x tab).level := by rw [h, t.hysteresis_level]
  exact ⟨(if_pos hsame).trans (t.hysteresis_switches x tab), (if_pos hsame).trans (t.hysteresis_lastSwitch x tab)⟩

/-- A change of level is counted, and is stamped with the evaluation's time (R96). -/
theorem Track.evaluate_record_of_level_ne (h : (t.evaluate x tab).level ≠ t.level) :
    (t.evaluate x tab).switches = t.switches + 1 ∧ (t.evaluate x tab).lastSwitch = some x.now := by
  have hchanged : (t.evaluate x tab).level ≠ (t.hysteresis x tab).level := by rwa [t.hysteresis_level]
  exact ⟨(if_neg hchanged).trans (congrArg (· + 1) (t.hysteresis_switches x tab)), if_neg hchanged⟩

end

/-! ## The evaluation of every track -/

/-- Settles O27. The condition of the statement is that some inhibit applies to the evaluated track, which keeps its
settings; then each row of the table is a lemma about that track, and the pin and the record are what an evaluation
writes. -/
theorem levelsFollowEnableModeAndInhibits : Obligations.LevelsFollowEnableModeAndInhibits := by
  rintro s i _ _ inhibited rfl rfl hcondition
  rw [s.evaluate_track i]
  generalize s.tev.tracks.get i = old at hcondition ⊢
  generalize s.cts.active.tracks.get i = tab
  have hreason : inhibitCause s.evalInputs (old.evaluate s.evalInputs tab) = inhibitCause s.evalInputs old :=
    inhibitCause_congr (old.evaluate_stallInhibit _ _)
  obtain rfl : inhibited = (inhibitCause s.evalInputs old).isSome :=
    Bool.eq_iff_iff.mpr (hcondition.trans (inhibitCause_isSome_iff (x := s.evalInputs)).symm)
  have hmode := old.evaluate_mode s.evalInputs tab
  have hinhibited := old.evaluate_inhibited s.evalInputs tab
  refine ⟨⟨hmode, old.evaluate_safe _ _, old.evaluate_polarity _ _, old.evaluate_stallInhibit _ _, rfl⟩, hinhibited,
    hinhibited ▸ old.evaluate_held s.evalInputs tab, ?disabled, ?forcedOn, ?forcedOff, ?inhibited, ?evaluated,
    ?activeHigh, ?activeLow, Track.evaluate_record_of_level_eq, Track.evaluate_record_of_level_ne⟩
  case disabled =>
    exact fun henable => ⟨trackLevel_of_disabled _ _ henable, trackCause_of_disabled henable⟩
  case forcedOn =>
    exact fun henable hold => trackRow_of_forceOn _ henable (hmode.trans hold)
  case forcedOff =>
    exact fun henable hold => trackRow_of_forceOff _ henable (hmode.trans hold)
  case inhibited =>
    intro henable hold hsome
    have hnormal := hmode.trans hold
    refine ⟨?level, fun hsync => ?sync, fun hsync hspeed => ?overspeed, fun hsync hspeed => ?stall⟩
    case level =>
      rw [Track.evaluate_level, trackLevel_of_inhibited _ henable hnormal (hreason ▸ hsome), old.evaluate_safe]
      rfl
    case sync => exact trackCause_of_inhibitCause henable hnormal (inhibitCause_of_notLocked hsync)
    case overspeed => exact trackCause_of_inhibitCause henable hnormal (inhibitCause_of_overspeed hsync hspeed)
    case stall =>
      obtain hunlocked | hover | hstall := inhibitCause_isSome_iff.mp hsome
      · exact absurd hsync hunlocked
      · exact absurd (hspeed.symm.trans hover) Bool.false_ne_true
      · exact trackCause_of_inhibitCause henable hnormal
          (hreason.trans (inhibitCause_of_stalled hsync hspeed hstall))
  case evaluated =>
    exact fun henable hold hnone => trackRow_of_evaluated _ henable (hmode.trans hold) (hreason ▸ hnone)
  case activeHigh =>
    intro hhigh
    rw [old.evaluate_pin, hhigh]
    rfl
  case activeLow =>
    intro hlow
    rw [old.evaluate_pin, hlow]
    rfl

end Sys2Proof.Machine
end

section
/-! SUPPORT. COMMIT NOW and COMMIT_CANCEL (R107, R108, R113, R115): which COMMIT a row executes, what each owner answers at
each of its checks, and the effect beside the state before it. -/

namespace Sys2Proof.Machine

/-! ## A row that shares its request code -/

/-- A COMMIT row executes the COMMIT that names its policy (log 8). -/
theorem isCommitOf_of_offers {s : State} {r : Request} {rest : List Request} {policy : Nat} (ho : s.offers 0x20 r rest)
    (hpolicy : u8At r.payload 0 = policy) : isCommitOf policy r = true := by
  obtain ⟨-, -, -, -, -, hkind, -⟩ := ho
  simp [isCommitOf, hkind, hpolicy]

/-- A request on offer has the length of its kind, so the length check leaves it to the owner (R176). -/
theorem checkLength_of_offers {s : State} {kind : Byte} {r : Request} {rest : List Request} (owner : Owner) (u : State)
    (ho : s.offers kind r rest) : checkLength owner r u = owner u r.payload := by
  obtain ⟨-, -, -, -, -, hkind, hlength⟩ := ho
  exact if_pos (hkind ▸ hlength)

/-- The execution of a request by a row that accepts it, by what its owner answers: a refusal, or an effect that leaves
the link alone. It is `State.executeKind_answers` for a row that looks at more than the request's kind. -/
theorem State.execute_answers {s : State} {kind : Byte} {r : Request} {rest : List Request} {accepts : Request → Bool}
    (owner : Owner) (ho : s.offers kind r rest) (haccepts : accepts r = true) :
    ∃ t, live (State.execute accepts (checkLength owner)) s = .next t
      ∧ (∀ st, owner (s.takeRequest rest) r.payload = refuse st (s.takeRequest rest) → refused s t r rest st.code)
      ∧ ∀ (u : State) st body, u.lkp = s.lkp →
        owner (s.takeRequest rest) r.payload = carryOut st body (u.takeRequest rest) →
        carriedOut s u t r rest st.code body := by
  have hlength := checkLength_of_offers owner (s.takeRequest rest) ho
  have hdone : ∀ (u : State) st body, u.lkp = s.lkp →
      owner (s.takeRequest rest) r.payload = carryOut st body (u.takeRequest rest) →
      ∃ t, live (State.execute accepts (checkLength owner)) s = .next t ∧ carriedOut s u t r rest st.code body := by
    intro u st body hlink howner
    have hlinkTaken : (u.takeRequest rest).lkp = (s.takeRequest rest).lkp := by simp [State.takeRequest, hlink]
    obtain ⟨t, hexec, hcarried⟩ := State.execute_carriedOut ho haccepts (hlength.trans howner) hlinkTaken
    exact ⟨t, hexec, hcarried.ofTakenEffect⟩
  refine ⟨_, rfl, fun st howner => ?_, fun u st body hlink howner => ?_⟩
  · obtain ⟨t, hexec, hrefused⟩ := hdone s st [] rfl howner
    obtain rfl := Host.Outcome.next.inj hexec
    exact hrefused
  · obtain ⟨t, hexec, hcarried⟩ := hdone u st body hlink howner
    obtain rfl := Host.Outcome.next.inj hexec
    exact hcarried

/-! ## COMMIT NOW (R107, R108) -/

section
variable {s : State} {p : List Byte}

theorem ownCommitNow_of_reserved (hzero : byteAt p 1 ≠ 0) : ownCommitNow s p = refuse .badValue s :=
  if_pos (.inr hzero)

theorem ownCommitNow_of_pending (hpolicy : u8At p 0 = 0) (hzero : byteAt p 1 = 0) (hc : s.bsc.commit ≠ none) :
    ownCommitNow s p = refuse .pending s := by
  simp [ownCommitNow, hpolicy, hzero, Option.isSome_iff_ne_none.mpr hc]

/-- With no commit pending the swap is made, whatever the sync state (R108). -/
theorem ownCommitNow_of_idle (hpolicy : u8At p 0 = 0) (hzero : byteAt p 1 = 0) (hc : s.bsc.commit = none) :
    ownCommitNow s p = carryOut .ok (word16 (s.cts.generation + 1)) s.swap := by
  simp [ownCommitNow, hpolicy, hzero, hc, Cts.swap]

end

/-- Of a swap, the execution of a request shows the banks and the memories; the views that it keeps for the captures of
its sample it closes. -/
theorem carriedOut.ofSwap {s t : State} {r : Request} {rest : List Request} {status : Byte} {fields : List Byte}
    (h : carriedOut s s.swap t r rest status fields) :
    carriedOut s { s with cts := s.cts.swap, tev := s.tev.clearMemories } t r rest status fields :=
  h.congr rfl rfl rfl rfl rfl rfl rfl rfl rfl rfl rfl ⟨rfl, rfl, rfl, rfl, rfl, rfl, rfl, rfl, id⟩

/-! ## COMMIT_CANCEL (R113, R115) -/

theorem CommitPolicy.code_eq_ite (c : CommitPolicy) : c.code = if c = .atIndex then 0x02 else 0x01 := by
  cases c with
  | atPosition q => rfl
  | atIndex => rfl

theorem ownCommitCancel_of_idle {s : State} {p : List Byte} (hc : s.bsc.commit = none) :
    ownCommitCancel s p = refuse .notPending s := by
  simp [ownCommitCancel, hc]

theorem ownCommitCancel_of_pending {s : State} {p : List Byte} {c : Commit} (hc : s.bsc.commit = some c) :
    ownCommitCancel s p = carryOut .ok [c.ticket, c.policy.code] (s.cancelCommit c) := by
  simp [ownCommitCancel, hc]

/-! ## The two requests -/

/-- Settles O46. For each request, the state that its row answers, then one answer of its owner per clause; neither owner
reads the sync state, and past the checks the effect is a swap or the end of the pending commit. -/
theorem commitNowSwapsAndCommitCancelEnds : Obligations.CommitNowSwapsAndCommitCancelEnds := by
  refine ⟨fun s r rest ho hpolicy => ?commitNow, fun s r rest ho => ?commitCancel⟩
  case commitNow =>
    obtain ⟨t, hexec, hrefused, hdone⟩ := State.execute_answers ownCommitNow ho (isCommitOf_of_offers ho hpolicy)
    refine ⟨t, hexec, ?_⟩
    split_ifs with hreserved hpending
    · exact hrefused .badValue (ownCommitNow_of_reserved hreserved)
    · exact hrefused .pending (ownCommitNow_of_pending hpolicy (not_not.mp hreserved) hpending)
    · exact (hdone s.swap .ok _ rfl
        (ownCommitNow_of_idle hpolicy (not_not.mp hreserved) (not_not.mp hpending))).ofSwap
  case commitCancel =>
    obtain ⟨t, hexec, hrefused, hdone⟩ := State.executeKind_answers ownCommitCancel ho
    refine ⟨t, hexec, fun hc => hrefused .notPending (ownCommitCancel_of_idle hc), fun c hc => ?_⟩
    rw [← c.policy.code_eq_ite]
    exact hdone (s.cancelCommit c) .ok _ rfl (ownCommitCancel_of_pending hc)

end Sys2Proof.Machine
end

section
/-! SUPPORT. The RSC, the LKP and NRST after a reset (R161, R162, R181, R182, R184, R197): what each kind of reset leaves,
with its own cause, count and straps, and what the state it leaves shows of the reports and the link. -/

namespace Sys2Proof.Machine

/-! ## What a reset leaves of the reports, the link and the reset pin -/

section
variable (cause : ResetCause) (count : Word16) (straps : BitVec 2) (s : State)

@[simp] theorem State.resetTo_nrstLow : (s.resetTo cause count straps).nrstLow = false := rfl

@[simp] theorem State.resetTo_rsc : (s.resetTo cause count straps).rsc = Rsc.reset cause := rfl

@[simp] theorem State.resetTo_lkp : (s.resetTo cause count straps).lkp = Lkp.reset cause count straps := rfl

end

/-! ## Each kind of reset -/

/-- At the end of the OK reply to RESET the part resets with cause REQUEST and the count one higher (R181, R182). -/
theorem exec_requestReset {s : State} (straps : BitVec 2) (hhigh : s.nrstLow = false)
    (htx : s.lkp.tx.endsInReset = true) :
    exec (.requestReset straps) s = .next (s.resetTo .request (s.lkp.resetCount + 1) straps) := by
  calc exec (.requestReset straps) s
      = .next (if s.lkp.tx.endsInReset then s.resetTo .request (s.lkp.resetCount + 1) straps else s) :=
        live_of_high hhigh
    _ = .next (s.resetTo .request (s.lkp.resetCount + 1) straps) := by rw [if_pos htx]

/-- A reset leaves the reset state of its own cause, count and straps (R181). Power-on and the pin act whatever NRST was;
a requested reset needs NRST high and the RESET's reply at its end. -/
theorem exec_of_resetsBy {s : State} {c : Instr} {cause : ResetCause} {count : Word16} {straps : BitVec 2}
    (h : s.resetsBy c cause count straps) : exec c s = .next (s.resetTo cause count straps) := by
  obtain ⟨rfl, rfl, rfl⟩ | ⟨rfl, rfl, rfl⟩ | ⟨rfl, rfl, rfl, hhigh, htx⟩ := h
  case inl => rfl
  case inr.inl => rfl
  case inr.inr => exact exec_requestReset straps hhigh htx

/-- Settles O4. Whatever its kind, a reset leaves the state of its cause, count and straps, where NRST is high and the RSC
and the LKP are at the values of their tables. -/
theorem resetsClearTheReportsAndTheLink : Obligations.ResetsClearTheReportsAndTheLink := by
  intro s c cause count straps hreset
  exact ⟨s.resetTo cause count straps, exec_of_resetsBy hreset, s.resetTo_nrstLow cause count straps,
    s.resetTo_rsc cause count straps, s.resetTo_lkp cause count straps⟩

end Sys2Proof.Machine
end

section
/-! SUPPORT. What an event of a sample can do, said once: the acts of the RFT and the BSC that steps, quadrature errors, index
events and latch edges are made of. A property that each act keeps is kept by every such event; between the RFT's act and
the BSC's answer to it a weaker property may stand. -/

namespace Sys2Proof.Machine

/-! ## What the BSC does with an arrival or an index event -/

/-- The BSC takes an arrival: the commit waits for that angle and ends by a swap, or nothing happens (R110). -/
theorem State.bscArrive_cases (p : AbsPos) (s : State) :
    (∃ c, s.bsc.commit = some c ∧ c.policy = .atPosition p.angle ∧ s.bscArrive p = s.endSwapped c p)
      ∨ ((∀ c, s.bsc.commit = some c → c.policy ≠ .atPosition p.angle) ∧ s.bscArrive p = s) := by
  unfold State.bscArrive
  split
  case h_1 c hc =>
    split
    case h_1 q hq =>
      split
      case isTrue h => exact .inl ⟨c, hc, by rw [hq, h], rfl⟩
      case isFalse h => exact .inr ⟨fun c' hc' => by cases hc.symm.trans hc'; simp [hq, h], rfl⟩
    case h_2 hq => exact .inr ⟨fun c' hc' => by cases hc.symm.trans hc'; simp [hq], rfl⟩
  case h_2 hc => exact .inr ⟨fun c' hc' => by simp [hc] at hc', rfl⟩

/-- The BSC takes an index event: the commit waits for it and ends by a swap, or nothing happens (R111). -/
theorem State.bscIndex_cases (s : State) :
    (∃ c, s.bsc.commit = some c ∧ c.policy = .atIndex ∧ s.bscIndex = s.endSwapped c s.pcu.pos)
      ∨ ((∀ c, s.bsc.commit = some c → c.policy ≠ .atIndex) ∧ s.bscIndex = s) := by
  unfold State.bscIndex
  split
  case h_1 c hc =>
    split
    case h_1 q hq => exact .inr ⟨fun c' hc' => by cases hc.symm.trans hc'; simp [hq], rfl⟩
    case h_2 hq => exact .inl ⟨c, hc, hq, rfl⟩
  case h_2 hc => exact .inr ⟨fun c' hc' => by simp [hc] at hc', rfl⟩

/-! ## What the RFT does with a step -/

/-- The RFT takes a step: a seek fails, an index is missing, or nothing happens (R29, R37). -/
theorem State.rftStep_cases (s : State) :
    (∃ r, s.rft.sync = .seeking r ∧ s.rftStep = s.failSeek r .failedTravel .travel)
      ∨ (∃ r ix, s.rft.sync = .locked r ∧ r.index = some ix ∧ s.rftStep
        = s.indexError .indexMissing { r with index := some (ix.miss (travel s.pcu.axis.cpr ix.last s.pcu.pos)) })
      ∨ s.rftStep = s := by
  unfold State.rftStep
  split
  case h_1 r hr =>
    split
    · exact .inl ⟨r, hr, rfl⟩
    · exact .inr (.inr rfl)
  case h_2 r hr =>
    split
    case h_1 ix hix =>
      split
      · exact .inr (.inl ⟨r, ix, hr, hix, rfl⟩)
      · exact .inr (.inr rfl)
    case h_2 => exact .inr (.inr rfl)
  case h_3 => exact .inr (.inr rfl)
  case h_4 => exact .inr (.inr rfl)

/-! ## A property that each act keeps -/

/-- The angles of the record `r'` come from those of `r` and from the position `p`. -/
def RefRecord.follows (p : AbsPos) (r r' : RefRecord) : Prop :=
  ∀ cpr, p.angle < cpr → (Sync.locked r).below cpr → (Sync.locked r').below cpr

/-- A property that each act of the RFT and the BSC within an event keeps; `M` holds where the BSC has still to take the
change of sync state. -/
structure EventsKept (P M : State → Prop) : Prop where
  mid : ∀ s, P s → M s
  sample : ∀ (s : State) x, P s → P { s with sample := x }
  sampleMid : ∀ (s : State) x, M s → M { s with sample := x }
  tsuStep : ∀ d (s : State), P s → P (s.tsuStep d)
  move : ∀ d (s : State), P s → P { s with pcu := { s.pcu with pos := s.pcu.pos.step s.pcu.axis.cpr d, dir := d } }
  countQuad : ∀ (s : State), P s → P s.countQuad
  swapped : ∀ c p (s : State), s.bsc.commit = some c → P s → P (s.endSwapped c p)
  swappedMid : ∀ c p (s : State), s.bsc.commit = some c → M s → M (s.endSwapped c p)
  left : ∀ (s : State), M s → P s.bscLeft
  failSeek : ∀ r o c (s : State), s.rft.sync = .seeking r → P s → P (s.failSeek r o c)
  lock : ∀ r (s : State), s.rft.sync = .seeking r → P s → P (s.lock r)
  lose : ∀ r c (s : State), s.rft.sync = .locked r → P s → M (s.changeSync (.lost r) c)
  load : ∀ r (s : State), s.rft.sync = .locked r → P s →
    P { s with rft := { s.rft with inForce := s.rft.configured, sync := .locked (s.loadChecks r) } }
  mark : ∀ r r' (s : State), s.rft.sync = .locked r → RefRecord.follows s.pcu.pos r r' →
    r'.consec = r.consec ∨ r'.consec = 0 → P s → P { s with rft := { s.rft with sync := .locked r' } }
  indexError : ∀ k r r' (s : State), s.rft.sync = .locked r → RefRecord.follows s.pcu.pos r r' →
    r'.consec = r.consec → P s → M (s.indexError k r')
  correct : ∀ r ix (s : State), s.rft.sync = .locked r → r.index = some ix → P s →
    P (s.jump (s.pcu.pos.correct s.pcu.axis.cpr (signedDiff s.pcu.axis.cpr s.pcu.pos.angle ix.pos)))

namespace EventsKept

variable {P M : State → Prop}

theorem bscArrive (h : EventsKept P M) (p : AbsPos) (s : State) (hs : P s) : P (s.bscArrive p) := by
  obtain ⟨c, hc, -, e⟩ | ⟨-, e⟩ := s.bscArrive_cases p <;> rw [e]
  · exact h.swapped c p s hc hs
  · exact hs

theorem bscArriveMid (h : EventsKept P M) (p : AbsPos) (s : State) (hs : M s) : M (s.bscArrive p) := by
  obtain ⟨c, hc, -, e⟩ | ⟨-, e⟩ := s.bscArrive_cases p <;> rw [e]
  · exact h.swappedMid c p s hc hs
  · exact hs

theorem bscIndex (h : EventsKept P M) (s : State) (hs : P s) : P s.bscIndex := by
  obtain ⟨c, hc, -, e⟩ | ⟨-, e⟩ := s.bscIndex_cases <;> rw [e]
  · exact h.swapped c _ s hc hs
  · exact hs

theorem bscIndexMid (h : EventsKept P M) (s : State) (hs : M s) : M s.bscIndex := by
  obtain ⟨c, hc, -, e⟩ | ⟨-, e⟩ := s.bscIndex_cases <;> rw [e]
  · exact h.swappedMid c _ s hc hs
  · exact hs

theorem bscArriveKept (h : EventsKept P M) (p : Option AbsPos) (s : State) (hs : P s) : P (s.bscArriveKept p) := by
  cases p with
  | some p => exact h.bscArrive p s hs
  | none => exact hs

theorem bscArriveKeptMid (h : EventsKept P M) (p : Option AbsPos) (s : State) (hs : M s) : M (s.bscArriveKept p) := by
  cases p with
  | some p => exact h.bscArriveMid p s hs
  | none => exact hs

theorem rftStep (h : EventsKept P M) (s : State) (hs : P s) : M s.rftStep := by
  obtain ⟨r, hr, e⟩ | ⟨r, ix, hr, hix, e⟩ | e := s.rftStep_cases <;> rw [e]
  · exact h.mid _ (h.failSeek r _ _ s hr hs)
  · refine h.indexError _ r _ s hr (fun cpr _ ⟨href, hbelow⟩ => ⟨href, ?_⟩) rfl hs
    rintro ix' ⟨⟩
    exact hbelow ix hix
  · exact h.mid _ hs

theorem stepSpeed (h : EventsKept P M) (d : Dir) (s : State) (hs : P s) : P (s.stepSpeed d) := by
  unfold State.stepSpeed
  split
  · exact hs
  · exact h.tsuStep d s hs

theorem applyStep (h : EventsKept P M) (d : Dir) (s : State) (hs : P s) : P (s.applyStep d) := by
  have hmoved := h.move d _ (h.stepSpeed d s hs)
  rw [State.stepSpeed_pcu] at hmoved
  exact h.sample _ _ hmoved

theorem handStep (h : EventsKept P M) (turn : ArrivalTurn) (s : State) (hs : P s) : P (s.handStep turn) := by
  unfold State.handStep
  cases turn with
  | beforeLoss => exact h.left _ (h.rftStep _ (h.bscArrive _ s hs))
  | afterRft => exact h.left _ (h.bscArriveMid _ _ (h.rftStep s hs))
  | afterLoss => exact h.bscArrive _ _ (h.left _ (h.rftStep s hs))
  | afterIndex =>
    have hleft := h.left _ (h.rftStep s hs)
    dsimp only
    split
    · exact h.sample _ _ hleft
    · exact h.bscArrive _ _ hleft

theorem takeStep (h : EventsKept P M) (d : Dir) (turn : ArrivalTurn) (s : State) (hs : P s) : P (s.takeStep d turn) :=
  h.handStep turn _ (h.applyStep d s hs)

theorem rftQuad (h : EventsKept P M) (s : State) (hs : P s) : M s.rftQuad := by
  unfold State.rftQuad
  split
  case h_1 r hr => exact h.mid _ (h.failSeek r _ _ s hr hs)
  case h_2 r hr => exact h.lose r _ s hr hs
  case h_3 => exact h.mid s hs
  case h_4 => exact h.mid s hs

theorem quadWithIndex (h : EventsKept P M) (s : State) (hs : P s) : M s.quadWithIndex := by
  unfold State.quadWithIndex
  split
  · exact h.bscIndexMid _ (h.sampleMid _ _ (h.rftQuad s hs))
  · exact h.rftQuad s hs

theorem takeQuadError (h : EventsKept P M) (turn : LossTurn) (s : State) (hs : P s) : P (s.takeQuadError turn) := by
  have hcounted := fun x => h.sample _ x (h.countQuad s hs)
  unfold State.takeQuadError
  cases turn with
  | eventFirst => exact h.left _ (h.quadWithIndex _ (hcounted _))
  | lossFirst => exact h.left _ (h.rftQuad _ (hcounted _))

theorem indexLocked (h : EventsKept P M) (r : RefRecord) (s : State) (hr : s.rft.sync = .locked r) (hs : P s) :
    M (s.indexLocked r) := by
  unfold State.indexLocked
  split
  case h_1 hix =>
    refine h.mid _ (h.mark r _ s hr (fun cpr hangle ⟨href, _⟩ => ⟨href, ?_⟩) (.inl rfl) hs)
    rintro ix' ⟨⟩
    exact ⟨hangle, hangle⟩
  case h_2 ix hix =>
    have follows : ∀ (p : AbsPos) (r' : RefRecord), r'.refValue = r.refValue →
        r'.index = some { ix with last := p } → RefRecord.follows p r r' := by
      rintro p r' href' hindex' cpr hangle ⟨href, hbelow⟩
      refine ⟨href' ▸ href, fun ix' hix' => ?_⟩
      obtain rfl := Option.some.inj (hindex'.symm.trans hix')
      exact ⟨(hbelow ix hix).1, hangle⟩
    split
    · exact h.mid _ (h.mark r _ s hr (follows _ _ rfl rfl) (.inl rfl) hs)
    · dsimp only
      split
      · split
        · have hjump := h.correct r ix s.noteView.noteMove hr hix (h.sample s s.noteView.noteMove.sample hs)
          exact h.mid _ (h.mark r _ _ hr (follows _ _ rfl rfl) (.inr rfl) hjump)
        · exact h.mid _ (h.mark r _ s hr (follows _ _ rfl rfl) (.inr rfl) hs)
      · exact h.indexError _ r _ s hr (follows _ _ rfl rfl) rfl hs

theorem rftIndex (h : EventsKept P M) (s : State) (hs : P s) : M s.rftIndex := by
  unfold State.rftIndex
  split
  case h_1 r hr =>
    split
    · exact h.mid _ (h.lock r s hr hs)
    · exact h.mid s hs
  case h_2 r hr => exact h.indexLocked _ _ rfl (h.load r s hr hs)
  case h_3 => exact h.mid s hs
  case h_4 => exact h.mid s hs

theorem takeIndexEvent (h : EventsKept P M) (turn : LossTurn) (s : State) (hs : P s) : P (s.takeIndexEvent turn) := by
  have hindexed := h.rftIndex _ (h.sample s { s.sample with z := none, arrival := none } hs)
  unfold State.takeIndexEvent
  cases turn with
  | eventFirst => exact h.left _ (h.bscArriveKeptMid _ _ (h.bscIndexMid _ hindexed))
  | lossFirst => exact h.bscArriveKept _ _ (h.bscIndex _ (h.left _ hindexed))

theorem takeRefEdge (h : EventsKept P M) (n : Fin 4) (s : State) (hs : P s) : P (s.takeRefEdge n) := by
  have htaken := h.sample s { s.sample with refEdges := s.sample.refEdges.set n none } hs
  unfold State.takeRefEdge
  dsimp only
  split
  case h_1 r hr =>
    split
    · exact h.lock r _ hr htaken
    · exact htaken
  all_goals exact htaken

end EventsKept

end Sys2Proof.Machine
end

section
/-! SUPPORT. STALLED and the history (R44, R45, R49, R50, R53): what a step, a stall, a decay and new settings leave of the
TSU, and that the TSU stays sound. -/

namespace Sys2Proof.Machine

/-! ## OVERSPEED follows its limit -/

theorem Tsu.overspeedNext_of_limit_zero {t : Tsu} (h : t.overspeedLimit = 0) : t.overspeedNext = false := by
  simp [Tsu.overspeedNext, h]

theorem Tsu.present_overspeed_of_limit_zero {t : Tsu} {v : Int} (h : t.overspeedLimit = 0) (hoff : t.overspeed = false) :
    (t.present v).overspeed = false := by
  unfold Tsu.present
  split
  · exact hoff
  · exact Tsu.overspeedNext_of_limit_zero h

@[simp] theorem Tsu.present_presented (v : Int) (t : Tsu) : (t.present v).presented = v := by
  unfold Tsu.present
  split
  case isTrue h => exact h.symm
  case isFalse => rfl

/-! ## An empty history -/

theorem Tsu.countEstimate_of_empty {t : Tsu} (h : t.history = []) : t.countEstimate = 0 := by
  simp [Tsu.countEstimate, h]

theorem Tsu.decayed_of_empty {t : Tsu} (h : t.history = []) : t.decayed = 0 := by
  simp [Tsu.decayed, Tsu.used, h]

/-! ## What each operation leaves sound -/

theorem Tsu.reset_sound : Tsu.reset.sound := by
  refine ⟨Nat.zero_le _, by simp [Tsu.reset], by simp [Tsu.reset], fun _ => ⟨rfl, rfl⟩, fun _ => rfl⟩

theorem Tsu.step_history (d : Dir) (t : Tsu) :
    (t.step d).history
      = ({ time := t.timebase, dir := d } :: (if t.lastDir = some d.opposite then [] else t.history)).take 9 := by
  unfold Tsu.step
  simp only [Tsu.present_history, Tsu.reverses, decide_eq_true_eq]

theorem Dir.eq_of_ne_opposite {d e : Dir} (h : e ≠ d.opposite) : e = d := by
  cases d <;> cases e <;> simp_all [Dir.opposite]

/-- What a step keeps of the history is of its own direction (R45). -/
theorem Tsu.step_history_dir {t : Tsu} (h : t.sound) (d : Dir) : ∀ e ∈ (t.step d).history, e.dir = d := by
  obtain ⟨-, -, hdir, -, -⟩ := h
  intro e he
  rw [t.step_history] at he
  obtain rfl | he := List.mem_cons.mp (List.mem_of_mem_take he)
  · rfl
  · split at he
    · simp at he
    case isFalse hkept =>
      exact Dir.eq_of_ne_opposite fun hopp => hkept (by rw [hdir e he, hopp])

theorem Tsu.step_sound {t : Tsu} (h : t.sound) (d : Dir) : (t.step d).sound := by
  have hdirs := Tsu.step_history_dir h d
  have hhist := t.step_history d
  obtain ⟨-, -, -, -, hover⟩ := h
  have hlast : (t.step d).lastDir = some d := by simp [Tsu.step]
  have hstalled : (t.step d).stalled = false := by simp [Tsu.step]
  refine ⟨?_, ?_, fun e he => by rw [hlast, hdirs e he], ?_, fun hlimit => ?_⟩
  · rw [hhist]; exact List.length_take_le ..
  · rw [hstalled, hhist]; simp
  · simp [hstalled]
  · exact Tsu.present_overspeed_of_limit_zero (by simpa using hlimit) (hover (by simpa using hlimit))

theorem Tsu.stall_sound {t : Tsu} (h : t.sound) : t.stall.sound := by
  obtain ⟨-, -, -, -, hover⟩ := h
  refine ⟨by simp [Tsu.stall], by simp [Tsu.stall], by simp [Tsu.stall], fun _ => by simp [Tsu.stall], fun hlimit => ?_⟩
  exact Tsu.present_overspeed_of_limit_zero (by simpa using hlimit) (hover (by simpa using hlimit))

theorem Tsu.present_decayed_sound {t : Tsu} (h : t.sound) : (t.present t.decayed).sound := by
  obtain ⟨hlen, hempty, hdir, hzero, hover⟩ := h
  refine ⟨by simpa using hlen, by simpa using hempty, by simpa using hdir, fun hst => ?_, fun hlimit => ?_⟩
  · have hst : t.stalled = true := by simpa using hst
    exact ⟨by simp [Tsu.decayed_of_empty (hempty.mp hst)], by simpa using (hzero hst).2⟩
  · exact Tsu.present_overspeed_of_limit_zero (by simpa using hlimit) (hover (by simpa using hlimit))

/-- The TSU once new settings are replaced and both speeds and OVERSPEED are formed anew, before a stall (R55). -/
def Tsu.reform (depth stallMs overspeedLimit : Nat) (t : Tsu) : Tsu :=
  let t1 : Tsu := { t with depth := depth, stallMs := stallMs, overspeedLimit := overspeedLimit }
  let t2 : Tsu := { t1 with estimate := t1.countEstimate }
  Tsu.testOverspeed { t2 with presented := t2.decayed }

theorem State.setSpeed_tsu (depth stallMs overspeedLimit : Nat) (s : State) :
    (s.setSpeed depth stallMs overspeedLimit).tsu
      = if (s.tsu.reform depth stallMs overspeedLimit).stallExpired then (s.tsu.reform depth stallMs overspeedLimit).stall
        else s.tsu.reform depth stallMs overspeedLimit := by
  unfold State.setSpeed
  dsimp only
  split <;> rename_i h <;> simp only [Tsu.reform] <;> simp [h]

theorem Tsu.reform_sound {t : Tsu} (h : t.sound) (depth stallMs overspeedLimit : Nat) :
    (t.reform depth stallMs overspeedLimit).sound := by
  obtain ⟨hlen, hempty, hdir, -, -⟩ := h
  refine ⟨hlen, hempty, hdir, fun hst => ?_, fun hlimit => Tsu.overspeedNext_of_limit_zero hlimit⟩
  exact ⟨Tsu.decayed_of_empty (hempty.mp hst), Tsu.countEstimate_of_empty (hempty.mp hst)⟩

/-! ## Every step -/

theorem State.stepSpeed_tsu_sound {s : State} (h : s.tsu.sound) (d : Dir) : (s.stepSpeed d).tsu.sound := by
  rw [s.stepSpeed_tsu]
  split
  · exact h
  · exact Tsu.step_sound h d

theorem Tsu.sound_kept : Kept fun s => s.tsu.sound := by
  constructor
  case reset => exact fun _ _ _ _ => Tsu.reset_sound
  case step =>
    intro d turn s _ h
    unfold State.takeStep
    rw [State.handStep_tsu]
    exact State.stepSpeed_tsu_sound h d
  case stepSpeed => exact fun d s _ h => State.stepSpeed_tsu_sound h d
  case stall => exact fun s h => Tsu.stall_sound h
  case decay => exact fun s h => Tsu.present_decayed_sound h
  case setSpeed =>
    intro depth stallMs limit s h
    rw [s.setSpeed_tsu]
    split
    · exact Tsu.stall_sound (Tsu.reform_sound h ..)
    · exact Tsu.reform_sound h ..
  case sampleInputs => exact fun _ _ h => h
  all_goals
    intros
    simpa

/-- Settles O56. Each operation on the TSU keeps it sound, and no other effect touches it. -/
theorem stalledMeansAnEmptyHistory : Obligations.StalledMeansAnEmptyHistory := fun _ _ => Tsu.sound_kept.next

end Sys2Proof.Machine
end

section
/-! SUPPORT. The pins, the levels and the held levels (R89, R90, R93, R95): an evaluation leaves every track sound, a clearing
of the memories keeps it so, and an event of a sample does nothing else to the tracks. -/

namespace Sys2Proof.Machine

/-! ## Clearing the memories -/

@[simp] theorem Tev.clearMemories_get (t : Tev) (i : Fin 8) :
    t.clearMemories.tracks.get i = { t.tracks.get i with memory := none } := Oct.get_map _ _ i

@[simp] theorem Tev.clearMemories_clearMemories (t : Tev) : t.clearMemories.clearMemories = t.clearMemories := by
  simp [Tev.clearMemories, Oct.map]

/-! ## The whole TEV -/

/-- Every track is sound under the enable. -/
def Tev.sound (t : Tev) : Prop := ∀ i : Fin 8, (t.tracks.get i).sound t.enable

theorem Tev.reset_sound : Tev.reset.sound := by
  intro i
  rw [Tev.reset_get]
  exact ⟨rfl, fun _ => rfl, fun _ => rfl⟩

theorem Tev.clearMemories_sound {t : Tev} (h : t.sound) : t.clearMemories.sound := by
  intro i
  rw [Tev.clearMemories_get]
  exact h i

/-- Whatever a track was, its evaluation leaves it sound (R90, R93, R95). -/
theorem Track.evaluate_sound (x : EvalInputs) (tab : TrackTable) (t : Track) :
    (t.evaluate x tab).sound x.enable := by
  refine ⟨rfl, t.evaluate_level_of_disabled tab, fun hfree => ?_⟩
  rw [t.evaluate_held, hfree]
  rfl

theorem State.evaluate_sound (s : State) : s.evaluate.tev.sound := by
  intro i
  rw [s.evaluate_track]
  exact Track.evaluate_sound _ _ _

theorem Tev.sound_eventsKept : EventsKept (fun s => s.tev.sound) (fun s => s.tev.sound) := by
  constructor
  case swapped => exact fun _ _ _ _ => Tev.clearMemories_sound
  case swappedMid => exact fun _ _ _ _ => Tev.clearMemories_sound
  case lock => exact fun _ _ _ => Tev.clearMemories_sound
  case correct => exact fun _ _ _ _ _ => Tev.clearMemories_sound
  all_goals
    intros
    simpa

theorem Tev.sound_kept : Kept fun s => s.tev.sound := by
  have hevents := Tev.sound_eventsKept
  constructor
  case reset => exact fun _ _ _ _ => Tev.reset_sound
  case evaluate => exact fun s _ => s.evaluate_sound
  case step => exact fun d turn s _ => hevents.takeStep d turn s
  case quadError => exact fun turn s _ => hevents.takeQuadError turn s
  case indexEvent => exact fun turn s _ => hevents.takeIndexEvent turn s
  case refEdge => exact hevents.takeRefEdge
  case lcuEdge =>
    intro n back s h
    unfold State.takeLcuEdge
    split <;> exact h
  case setAxis => exact fun _ _ _ _ _ _ _ => Tev.clearMemories_sound
  case positionSet => exact fun _ _ _ _ => Tev.clearMemories_sound
  case commitNow => exact fun _ _ => Tev.clearMemories_sound
  case setEnable => exact fun _ _ _ => State.evaluate_sound _
  case setMode => exact fun _ _ _ _ _ _ _ => State.evaluate_sound _
  all_goals
    intros
    simpa

/-- Settles O57. An evaluation leaves every track sound, and the events and requests that touch the tracks between
evaluations only clear memories. -/
theorem pinsShowTheirLevels : Obligations.PinsShowTheirLevels := fun _ _ => Tev.sound_kept.next

end Sys2Proof.Machine
end

section
/-! SUPPORT. The capture queue and the latches (R124 to R131), and the RSC's accumulators, credit and timer (R141, R145, R149,
R157, R158): what each operation of the LCU and of the RSC keeps. -/

namespace Sys2Proof.Machine

/-! ## One latch -/

theorem Latch.reset_sound : Latch.reset.sound := ⟨by simp [Latch.reset], by simp [Latch.reset]⟩

/-- Accepting an edge leaves a latch sound: it was armed, so its selection is not OFF (R124, R125, R126). -/
theorem Latch.accept_sound {l : Latch} (h : l.sound) (harmed : l.arm = .armed) (now : Word32) : (l.accept now).sound := by
  obtain ⟨hoff, -⟩ := h
  have hedge : l.edge ≠ .off := fun he => by simp [hoff.mpr he] at harmed
  refine ⟨?_, ?_⟩
  · simp only [Latch.accept_edge, hedge, iff_false]
    unfold Latch.accept
    dsimp only
    split <;> simp [harmed]
  · unfold Latch.accept
    dsimp only
    split <;> simp [*]

theorem Latch.configure_sound (edge : EdgeSel) (mode : LatchMode) (holdoffUs filterLen : Nat) (l : Latch) :
    (l.configure edge mode holdoffUs filterLen).sound := by
  refine ⟨?_, by simp [Latch.configure]⟩
  unfold Latch.configure
  dsimp only
  split <;> simp [*]

theorem Latch.rearm_sound {l : Latch} (h : l.sound) (harm : l.arm ≠ .off) : ({ l with arm := .armed } : Latch).sound := by
  obtain ⟨hoff, hhold⟩ := h
  exact ⟨by simpa using fun he => harm (hoff.mpr he), hhold⟩

/-- The counters of a latch are no part of what makes it sound. -/
theorem Latch.sound.counters {l : Latch} (h : l.sound) (lost suppressed : Word16) :
    ({ l with lost := lost, suppressed := suppressed } : Latch).sound := h

theorem Latch.armed_of_action {now : Word32} {k : EdgeKind} {l : Latch} (h : l.action now k ≠ .ignore) :
    l.arm = .armed := by
  unfold Latch.action at h
  split at h <;> simp_all

/-! ## The LCU -/

/-- The LCU stays sound where one latch is replaced by a sound one. -/
theorem Lcu.sound_of_set {c d : Lcu} {n : Fin 4} {l : Latch} (h : c.sound) (hl : l.sound)
    (hd : d.latches = c.latches.set n l) (hlen : d.queue.length ≤ 32)
    (hgap : ∀ x ∈ d.queue, x.gap = true ↔ x.lostBefore ≠ 0) : d.sound := by
  obtain ⟨-, -, hlatches⟩ := h
  refine ⟨hlen, hgap, fun m => ?_⟩
  rw [hd, Quad.get_set]
  split
  · exact hl
  · exact hlatches m

theorem Lcu.sound.latch {c : Lcu} (h : c.sound) (n : Fin 4) : (c.latches.get n).sound := h.2.2 n

theorem Lcu.reset_sound : Lcu.reset.sound := by
  refine ⟨Nat.zero_le _, by simp [Lcu.reset], fun n => ?_⟩
  rw [Lcu.reset_get]
  exact Latch.reset_sound

theorem Lcu.takeEdge_sound {c : Lcu} (h : c.sound) (n : Fin 4) (k : EdgeKind) (now : Word32) (v : View) :
    (c.takeEdge n k now v).sound := by
  have ⟨hlen, hgap, hlatches⟩ := h
  unfold Lcu.takeEdge
  dsimp only
  split
  case h_1 => exact h
  case h_2 => exact Lcu.sound_of_set h ((hlatches n).counters _ _) rfl hlen hgap
  case h_3 hcapture =>
    have harmed : (c.latches.get n).arm = .armed := Latch.armed_of_action (now := now) (k := k) (by simp [hcapture])
    have hl := Latch.accept_sound (hlatches n) harmed now
    split
    case isTrue hroom =>
      refine Lcu.sound_of_set h hl rfl ?_ ?_
      · have : c.queue.length < 32 := by simpa [Lcu.hasRoom] using hroom
        simpa using this
      · intro x hx
        obtain hx | rfl := by simpa using hx
        · exact hgap x hx
        · simp [Lcu.record]
    case isFalse => exact Lcu.sound_of_set h (hl.counters _ _) rfl hlen hgap

theorem Lcu.sample_sound {c : Lcu} (h : c.sound) (lt : Quad Bool) :
    ({ c with latches := Quad.zip (fun l level => Latch.sample level l) c.latches lt } : Lcu).sound := by
  obtain ⟨hlen, hgap, hlatches⟩ := h
  refine ⟨hlen, hgap, fun n => ?_⟩
  rw [Quad.get_zip]
  exact hlatches n

/-- Records removed from the front of the queue. -/
theorem Lcu.drop_sound {c : Lcu} (h : c.sound) (k : Nat) : ({ c with queue := c.queue.drop k } : Lcu).sound := by
  obtain ⟨hlen, hgap, hlatches⟩ := h
  refine ⟨?_, fun x hx => hgap x (List.mem_of_mem_drop hx), hlatches⟩
  simp only [List.length_drop]
  omega

theorem Lcu.set_sound {c : Lcu} (h : c.sound) (n : Fin 4) {l : Latch} (hl : l.sound) :
    ({ c with latches := c.latches.set n l } : Lcu).sound := by
  have ⟨hlen, hgap, _⟩ := h
  exact Lcu.sound_of_set h hl rfl hlen hgap

theorem Lcu.sound_kept : Kept fun s => s.lcu.sound := by
  constructor
  case reset => exact fun _ _ _ _ => Lcu.reset_sound
  case sampleInputs => exact fun lv s h => Lcu.sample_sound h lv.lt
  case latchSettlingEnd => exact fun n s h => Lcu.set_sound h n (h.latch n)
  case holdoffEnd => exact fun n s h => Lcu.set_sound h n ⟨(h.latch n).1, by simp⟩
  case lcuEdge =>
    intro n back s h
    unfold State.takeLcuEdge
    split
    · exact Lcu.takeEdge_sound h ..
    · exact h
  case handOver =>
    intro k s _ h
    unfold State.handOverKind
    dsimp only
    split
    · exact Lcu.drop_sound h 4
    · exact h
  case configureLatch => exact fun n _ _ _ _ s h => Lcu.set_sound h n (Latch.configure_sound ..)
  case armLatch => exact fun n s harm h => Lcu.set_sound h n (Latch.rearm_sound (h.latch n) harm)
  case dropCaptures => exact fun k s h => Lcu.drop_sound h k
  all_goals
    intros
    simpa

/-! ## The RSC -/

section
variable {r : Rsc} (h : r.sound)
include h

theorem Rsc.receive_sound (es : List RscEvent) : (r.receive es).sound := by
  obtain ⟨hcredit, hsync, hfault, hmotion, hposition, htimer, hfresh⟩ := h
  refine ⟨hcredit, hsync, hfault, hmotion, hposition, htimer, fun e he => ?_⟩
  obtain he | ⟨-, he⟩ := by simpa [Rsc.receive] using he
  · exact hfresh e he
  · exact he

theorem Rsc.syncEvent_sound (state : SyncState) (cause : SyncCause) (now : Word32) :
    (r.syncEvent state cause now).sound := by
  obtain ⟨hcredit, hsync, hrest⟩ := h
  refine ⟨hcredit, fun hoff => ?_, hrest⟩
  have hoff : r.enable.sync = false := hoff
  simp [Rsc.syncEvent, hoff, hsync]

theorem Rsc.fold_sound {e : RscEvent} (he : e.enabledIn r.enable = true) : (r.fold e).sound := by
  obtain ⟨hcredit, hsync, hfault, hmotion, hposition, htimer, hfresh⟩ := h
  cases e with
  | fault k =>
    refine ⟨hcredit, hsync, fun hoff => ?_, hmotion, hposition, htimer, hfresh⟩
    have hoff : r.enable.fault = false := hoff
    simp [RscEvent.enabledIn, hoff] at he
  | motion k =>
    refine ⟨hcredit, hsync, hfault, fun hoff => ?_, hposition, htimer, hfresh⟩
    have hoff : r.enable.motion = false := hoff
    simp [RscEvent.enabledIn, hoff] at he

theorem Rsc.foldAll_sound (es : List RscEvent) (hes : ∀ e ∈ es, e.enabledIn r.enable = true) :
    (es.foldl Rsc.fold r).sound := by
  induction es generalizing r with
  | nil => exact h
  | cons e es ih =>
    refine ih (Rsc.fold_sound h (hes e (by simp))) fun e' he' => ?_
    rw [Rsc.fold_enable]
    exact hes e' (by simp [he'])

end

theorem markLate_snd (own : RscEvent → Bool) (mask : Nat) (es : List RscEvent) :
    (markLate own mask es).map (·.2) = es := by
  induction es generalizing mask with
  | nil => rfl
  | cons e es ih => simp [markLate, ih]

/-- The events picked, late or not, stand in their order among those not folded yet. -/
theorem Rsc.picked_sublist (own : RscEvent → Bool) (wanted : Bool) (mask : Nat) (r : Rsc) :
    (r.picked own wanted mask).Sublist r.fresh := by
  have := (List.filter_sublist (p := fun x => x.1 == wanted) (l := markLate own mask r.fresh)).map (·.2)
  rwa [markLate_snd] at this

theorem Rsc.taken_sound {r : Rsc} (h : r.sound) (own : RscEvent → Bool) (mask : Nat) : (r.taken own mask).sound := by
  have ⟨hcredit, hsync, hfault, hmotion, hposition, htimer, hfresh⟩ := h
  unfold Rsc.taken
  refine Rsc.foldAll_sound ?_ _ fun e he => hfresh e ((r.picked_sublist own false mask).subset he)
  exact ⟨hcredit, hsync, hfault, hmotion, hposition, htimer,
    fun e he => hfresh e ((r.picked_sublist own true mask).subset he)⟩

theorem Rsc.handOver_sound {r : Rsc} (h : r.sound) (k : ReportKind) : (r.handOver k).sound := by
  obtain ⟨hcredit, hsync, hfault, hmotion, hposition, htimer, hfresh⟩ := h
  unfold Rsc.handOver
  refine ⟨?_, fun hoff => ?_, fun hoff => ?_, fun hoff => ?_, fun hoff => ?_, htimer, hfresh⟩ <;> dsimp only at *
  · split <;> omega
  · rw [hsync hoff, ite_self]
  · rw [hfault hoff, ite_self]
  · rw [hmotion hoff, ite_self]
  · rw [hposition hoff, ite_self]

theorem Rsc.configure_sound {r : Rsc} (hcredit : r.credit ≤ 15) (hfresh : r.fresh = []) (e : EnableSet) (intervalMs : Nat)
    (now : Word32) : (r.configure e intervalMs now).sound := by
  unfold Rsc.configure
  refine ⟨hcredit, fun hoff => ?_, fun hoff => ?_, fun hoff => ?_, fun hoff => ?_, ?_, ?_⟩ <;> dsimp only at *
  · simp [hoff]
  · simp [hoff]
  · simp [hoff]
  · simp [hoff]
  · split <;> simp_all
  · simp [hfresh]

theorem Rsc.reset_sound (cause : ResetCause) : (Rsc.reset cause).sound := by
  simp [Rsc.sound, Rsc.reset]

/-- The snapshot is taken only while its timer runs, so it keeps POSITION enabled (R157). -/
theorem State.takeTimer_sound {s : State} (back : Nat) (hdue : s.timerDue = true) (h : s.rsc.sound) :
    (s.takeTimer back).rsc.sound := by
  obtain ⟨hcredit, hsync, hfault, hmotion, -, htimer, hfresh⟩ := h
  have hon : s.rsc.enable.position = true ∧ s.rsc.intervalMs ≠ 0 := by
    simp only [State.timerDue, State.timerExpired, Bool.and_eq_true] at hdue
    obtain ⟨⟨⟨hexpired, -⟩, -⟩, -⟩ := hdue
    split at hexpired
    · simp only [Bool.and_eq_true, decide_eq_true_eq] at hexpired
      exact ⟨hexpired.1.1.2, hexpired.1.2⟩
    · cases hexpired
  refine ⟨hcredit, hsync, hfault, hmotion, fun hoff => ?_, ?_, hfresh⟩
  · have hoff : s.rsc.enable.position = false := hoff
    simp [hon.1] at hoff
  · simpa [State.takeTimer] using hon

theorem Rsc.sound_eventsKept : EventsKept (fun s => s.rsc.sound) (fun s => s.rsc.sound) := by
  constructor
  case tsuStep => exact fun d s h => Rsc.receive_sound h _
  case countQuad =>
    intro s h
    unfold State.countQuad
    split
    · exact h
    · exact Rsc.receive_sound h _
  case swapped => exact fun _ _ _ _ h => h
  case swappedMid => exact fun _ _ _ _ h => h
  case left =>
    intro s h
    unfold State.bscLeft
    dsimp only
    split
    · exact h
    · split <;> exact h
  case failSeek => exact fun _ _ _ s _ h => Rsc.syncEvent_sound h ..
  case lock => exact fun _ s _ h => Rsc.syncEvent_sound h ..
  case lose => exact fun _ _ s _ h => Rsc.syncEvent_sound h ..
  case indexError =>
    intro k r r' s _ _ _ h
    have hcounted : (s.rsc.addFault k).sound := Rsc.receive_sound h _
    unfold State.indexError
    dsimp only
    split
    · exact Rsc.syncEvent_sound hcounted ..
    · exact hcounted
  all_goals
    intros
    simpa

theorem Rsc.sound_kept : Kept fun s => s.rsc.sound := by
  have hevents := Rsc.sound_eventsKept
  constructor
  case reset => exact fun cause _ _ _ => Rsc.reset_sound cause
  case sampleInputs => exact fun lv s h => Rsc.taken_sound h _ _
  case step => exact fun d turn s _ => hevents.takeStep d turn s
  case stepSpeed => exact fun d s _ => hevents.stepSpeed d s
  case quadError => exact fun turn s _ => hevents.takeQuadError turn s
  case countQuad => exact fun s _ => hevents.countQuad s
  case indexEvent => exact fun turn s _ => hevents.takeIndexEvent turn s
  case refEdge => exact hevents.takeRefEdge
  case lcuEdge =>
    intro n back s h
    unfold State.takeLcuEdge State.captureEdge
    split
    · dsimp only
      split
      · exact Rsc.receive_sound h _
      · exact h
    · exact h
  case stall => exact fun s h => Rsc.receive_sound h _
  case decay => exact fun s h => Rsc.receive_sound h _
  case timer => exact fun back s => State.takeTimer_sound back
  case handOver => exact fun k s _ h => Rsc.handOver_sound h k
  case seek =>
    intro src p s _ _ _ h
    exact hevents.left _ (Rsc.syncEvent_sound (r := s.rsc.accept) h ..)
  case seekAbort => exact fun r c s hr => hevents.failSeek r _ c s hr
  case release => exact fun s _ h => hevents.left _ (Rsc.syncEvent_sound h ..)
  case setSpeed =>
    intro _ _ _ s h
    unfold State.setSpeed
    dsimp only
    split
    · exact Rsc.receive_sound (Rsc.receive_sound h _) _
    · exact Rsc.receive_sound h _
  case startCommit => exact fun _ s _ _ _ _ h => h
  case cancelCommit => exact fun _ s _ h => h
  case reports =>
    intro e n s h
    exact Rsc.configure_sound (by simpa using h.1) (by rw [Rsc.takenAll_eq]; simp) _ _ _
  case taken => exact fun own mask s h => Rsc.taken_sound h own mask
  case order => exact fun code s h => h
  case grant =>
    intro g s h
    exact ⟨Nat.min_le_right _ _, h.2⟩
  all_goals
    intros
    simpa

/-- Settles O58. Each operation on the LCU and each on the RSC keeps its block sound, and no other effect touches it. -/
theorem captureQueueAndReportStateStaySound : Obligations.CaptureQueueAndReportStateStaySound :=
  ⟨fun _ _ => Lcu.sound_kept.next, fun _ _ => Rsc.sound_kept.next⟩

end Sys2Proof.Machine
end

section
/-! SUPPORT. The banks (R59, R60, R64): a window that overlaps no other has its one place in a sorted list, the pool counts the
windows of the eight lists, and no step leaves a bank ill formed. -/

namespace Sys2Proof.Machine

/-! ## The place of a window -/

theorem Window.overlaps_comm (u w : Window) : u.overlaps w = w.overlaps u := Bool.or_comm _ _

/-- Two windows with one key overlap: each covers its own key (R61, R63). -/
theorem Window.on_ne_of_not_overlaps {u w : Window} (h : w.overlaps u = false) : u.on ≠ w.on := by
  intro hon
  have hcovers : w.covers u.on = true := by
    unfold Window.covers
    split <;> simp [hon] at *
    assumption
  simp [Window.overlaps, hcovers] at h

/-- In a sorted list a window with a new key goes between the windows with lower keys and those with higher ones. -/
theorem insertWindow_split {w : Window} {ws : List Window} (hsorted : ws.Pairwise fun a b => a.on < b.on)
    (hnew : ∀ u ∈ ws, u.on ≠ w.on) :
    ∃ below above, ws = below ++ above ∧ (∀ u ∈ below, u.on < w.on) ∧ (∀ u ∈ above, w.on < u.on)
      ∧ insertWindow w ws = below ++ w :: above := by
  induction ws with
  | nil => exact ⟨[], [], rfl, by simp, by simp, rfl⟩
  | cons x ws ih =>
    obtain ⟨hx, hrest⟩ := List.pairwise_cons.mp hsorted
    by_cases hlt : w.on < x.on
    · refine ⟨[], x :: ws, rfl, by simp, ?_, if_pos hlt⟩
      intro u hu
      obtain rfl | hu := List.mem_cons.mp hu
      · exact hlt
      · exact hlt.trans (hx u hu)
    · obtain ⟨below, above, rfl, hbelow, habove, e⟩ := ih hrest fun u hu => hnew u (List.mem_cons_of_mem x hu)
      have hxw : x.on < w.on := lt_of_le_of_ne (not_lt.mp hlt) (hnew x List.mem_cons_self)
      refine ⟨x :: below, above, rfl, ?_, habove, ?_⟩
      · intro u hu
        obtain rfl | hu := List.mem_cons.mp hu
        · exact hxw
        · exact hbelow u hu
      · simp [insertWindow, hlt, e]

theorem insertWindow_perm (w : Window) (ws : List Window) : (insertWindow w ws).Perm (w :: ws) := by
  induction ws with
  | nil => exact List.Perm.refl _
  | cons x ws ih =>
    unfold insertWindow
    split
    · exact List.Perm.refl _
    · exact (ih.cons x).trans (List.Perm.swap w x ws)

/-! ## One track -/

section
variable {cpr : Nat} {tab : TrackTable} (h : tab.sound cpr)
include h

theorem TrackTable.insert_sound {w : Window} (hon : w.on < cpr) (hoff : w.off < cpr) (hne : w.on ≠ w.off)
    (hfree : ∀ u ∈ tab.windows, w.overlaps u = false) (hroom : tab.windows.length < 16) :
    ({ tab with windows := insertWindow w tab.windows } : TrackTable).sound cpr := by
  obtain ⟨hsorted, -, hapart, hangles⟩ := h
  have hperm := insertWindow_perm w tab.windows
  refine ⟨?_, ?_, ?_, ?_⟩
  · obtain ⟨below, above, hsplit, hbelow, habove, e⟩ :=
      insertWindow_split hsorted fun u hu => Window.on_ne_of_not_overlaps (hfree u hu)
    rw [hsplit] at hsorted
    obtain ⟨hsortedBelow, hsortedAbove, hacross⟩ := List.pairwise_append.mp hsorted
    rw [e]
    refine List.pairwise_append.mpr ⟨hsortedBelow, List.pairwise_cons.mpr ⟨habove, hsortedAbove⟩, fun u hu x hx => ?_⟩
    obtain rfl | hx := List.mem_cons.mp hx
    · exact hbelow u hu
    · exact hacross u hu x hx
  · rw [hperm.length_eq]
    simpa using hroom
  · refine (hperm.pairwise_iff fun {u x} hux => (u.overlaps_comm x).symm.trans hux).mpr ?_
    exact List.pairwise_cons.mpr ⟨hfree, hapart⟩
  · intro u hu
    obtain rfl | hu := List.mem_cons.mp (hperm.mem_iff.mp hu)
    · exact ⟨hon, hoff, hne⟩
    · exact hangles u hu

/-- Windows taken out of the list. -/
theorem TrackTable.sublist_sound {ws : List Window} (hsub : ws.Sublist tab.windows) :
    ({ tab with windows := ws } : TrackTable).sound cpr := by
  obtain ⟨hsorted, hlen, hapart, hangles⟩ := h
  exact ⟨hsorted.sublist hsub, hsub.length_le.trans hlen, hapart.sublist hsub, fun u hu => hangles u (hsub.subset hu)⟩

theorem TrackTable.recpr_sound {cpr' : Nat}
    (hfits : (tab.windows.any fun w => decide (cpr' ≤ w.on) || decide (cpr' ≤ w.off)) = false) : tab.sound cpr' := by
  obtain ⟨hsorted, hlen, hapart, hangles⟩ := h
  refine ⟨hsorted, hlen, hapart, fun u hu => ?_⟩
  obtain ⟨-, -, hne⟩ := hangles u hu
  have hu := List.any_eq_false.mp hfits u hu
  simp only [Bool.or_eq_true, decide_eq_true_eq, not_or, not_le] at hu
  exact ⟨hu.1, hu.2, hne⟩

end

/-! ## A bank and its pool -/

/-- The pool follows the length of the list that is replaced. -/
theorem Bank.windowCount_set (b : Bank) (i : Fin 8) (tab : TrackTable) (pool : Nat) :
    ({ tracks := b.tracks.set i tab, pool := pool } : Bank).windowCount + (b.tracks.get i).windows.length
      = b.windowCount + tab.windows.length := by
  fin_cases i <;> simp [Bank.windowCount, Oct.set, Oct.get, Oct.toList] <;> omega

theorem Bank.windowCount_ge (b : Bank) (i : Fin 8) : (b.tracks.get i).windows.length ≤ b.windowCount := by
  fin_cases i <;> simp [Bank.windowCount, Oct.get, Oct.toList] <;> omega

theorem Bank.reset_sound (cpr : Nat) : Bank.reset.sound cpr := by
  refine ⟨fun i => ?_, rfl, Nat.zero_le _⟩
  rw [Bank.reset_get]
  exact ⟨List.Pairwise.nil, Nat.zero_le _, List.Pairwise.nil, by simp⟩

/-- One list replaced by a sound one, with the pool count that goes with it. -/
theorem Bank.set_sound {cpr : Nat} {b : Bank} (h : b.sound cpr) (i : Fin 8) {tab : TrackTable} (htab : tab.sound cpr)
    {pool : Nat} (hpool : pool + (b.tracks.get i).windows.length = b.pool + tab.windows.length) (hmax : pool ≤ 64) :
    ({ tracks := b.tracks.set i tab, pool := pool } : Bank).sound cpr := by
  obtain ⟨htracks, hcount, -⟩ := h
  refine ⟨fun j => ?_, ?_, hmax⟩
  · rw [Oct.get_set]
    split
    · exact htab
    · exact htracks j
  · have := b.windowCount_set i tab pool
    show pool = _
    omega

theorem Bank.recpr_sound {cpr cpr' : Nat} {b : Bank} (h : b.sound cpr) (hfits : b.conflicts cpr' = false) :
    b.sound cpr' := by
  obtain ⟨htracks, hpool⟩ := h
  refine ⟨fun i => TrackTable.recpr_sound (htracks i) ?_, hpool⟩
  have hlist := List.any_eq_false.mp hfits
  have hmem : b.tracks.get i ∈ b.tracks.toList := by fin_cases i <;> simp [Oct.get, Oct.toList]
  simpa using hlist _ hmem

/-! ## Both banks -/

section
variable {s : State} (h : s.banksSound)
include h

theorem State.banksSound.track (i : Fin 8) : (s.cts.shadow.tracks.get i).sound s.pcu.axis.cpr := h.2.1 i

theorem State.banksSound.pool : s.cts.shadow.pool = s.cts.shadow.windowCount := h.2.2.1

theorem State.banksSound.poolMax : s.cts.shadow.pool ≤ 64 := h.2.2.2

end

/-- An edit of SHADOW that keeps its bank sound. -/
theorem State.banksSound_of_edit {s : State} (h : s.banksSound) (i : Fin 8) {tab : TrackTable}
    (htab : tab.sound s.pcu.axis.cpr) {pool : Nat}
    (hpool : pool + (s.cts.shadow.tracks.get i).windows.length = s.cts.shadow.pool + tab.windows.length)
    (hmax : pool ≤ 64) : (s.editShadow i tab pool).banksSound :=
  ⟨h.1, Bank.set_sound h.2 i htab hpool hmax⟩

theorem State.banksSound_eventsKept : EventsKept State.banksSound State.banksSound := by
  constructor
  case swapped => exact fun _ _ _ _ h => ⟨h.2, h.2⟩
  case swappedMid => exact fun _ _ _ _ h => ⟨h.2, h.2⟩
  case indexError =>
    intros
    simpa [State.banksSound]
  case countQuad =>
    intros
    simpa [State.banksSound]
  all_goals
    intros
    assumption

theorem State.banksSound_kept : Kept State.banksSound := by
  have hevents := State.banksSound_eventsKept
  constructor
  case reset => exact fun _ _ _ _ => ⟨Bank.reset_sound _, Bank.reset_sound _⟩
  case step => exact fun d turn s _ => hevents.takeStep d turn s
  case stepSpeed => exact fun d s _ => hevents.stepSpeed d s
  case quadError => exact fun turn s _ => hevents.takeQuadError turn s
  case countQuad => exact fun s _ => hevents.countQuad s
  case indexEvent => exact fun turn s _ => hevents.takeIndexEvent turn s
  case refEdge => exact hevents.takeRefEdge
  case lcuEdge =>
    intro n back s h
    unfold State.takeLcuEdge
    split <;> exact h
  case setAxis =>
    intro a s _ _ _ hactive hshadow ⟨ha, hs⟩
    exact ⟨Bank.recpr_sound ha hactive, Bank.recpr_sound hs hshadow⟩
  case addWindow =>
    intro i w s hon hoff hne _ hfree hroom hpool h
    refine State.banksSound_of_edit h i (TrackTable.insert_sound (h.track i) hon hoff hne hfree hroom) ?_ hpool
    rw [(insertWindow_perm w _).length_eq, List.length_cons]
    omega
  case removeWindow =>
    intro i n s hn _ h
    have hpool := h.pool
    have hmax := h.poolMax
    have hge := s.cts.shadow.windowCount_ge i
    refine State.banksSound_of_edit h i (TrackTable.sublist_sound (h.track i) (List.eraseIdx_sublist ..)) ?_ ?_
    · rw [List.length_eraseIdx_of_lt hn]
      omega
    · omega
  case clearTrack =>
    intro i s _ h
    have hpool := h.pool
    have hmax := h.poolMax
    have hge := s.cts.shadow.windowCount_ge i
    refine State.banksSound_of_edit h i (TrackTable.sublist_sound (h.track i) (List.nil_sublist _)) ?_ ?_
    · rw [List.length_nil]
      omega
    · omega
  case setParams =>
    intro i l m s _ h
    have htab : ({ s.cts.shadow.tracks.get i with leadUs := l, hysteresis := m } : TrackTable).sound s.pcu.axis.cpr :=
      h.track i
    exact State.banksSound_of_edit h i htab rfl h.poolMax
  case revertShadow => exact fun s _ h => ⟨h.1, h.1⟩
  case commitNow => exact fun s _ h => ⟨h.2, h.2⟩
  case setSpeed =>
    intros
    simpa [State.banksSound]
  all_goals
    intros
    assumption

/-- Settles O54. A swap copies a sound bank, each edit of SHADOW keeps its lists and its pool count, and AXIS_SET accepts
only a CPR that every window fits. -/
theorem banksStayWellFormed : Obligations.BanksStayWellFormed := fun _ _ hstep _ => State.banksSound_kept.next hstep

end Sys2Proof.Machine
end

section
/-! SUPPORT. The arithmetic of positions (R10, R11, R17, R35): one step stays below CPR, the signed circular difference is the
raw difference up to one revolution, and a correction by it ends at the index position. -/

namespace Sys2Proof.Machine

theorem AbsPos.step_below {cpr : Nat} (hcpr : 8 ≤ cpr) {p : AbsPos} (hp : p.angle < cpr) (d : Dir) :
    (p.step cpr d).angle < cpr := by
  cases d <;> unfold AbsPos.step <;> dsimp only <;> split <;> dsimp only <;> omega

section
variable {cpr angle q : Nat} (hcpr : 8 ≤ cpr) (hangle : angle < cpr) (hq : q < cpr)
include hangle hq

/-- The remainder of the raw difference: the difference itself, or one revolution above it. -/
theorem rawDiff_emod : ((angle : Int) - (q : Int)) % (cpr : Int) = if q ≤ angle then (angle : Int) - q else angle - q + cpr := by
  split
  · exact Int.emod_eq_of_lt (by omega) (by omega)
  · rw [← Int.add_emod_right]
    exact Int.emod_eq_of_lt (by omega) (by omega)

/-- The signed circular difference is the raw one, up to one revolution either way. -/
theorem signedDiff_cases : signedDiff cpr angle q = (angle : Int) - q ∨ signedDiff cpr angle q = angle - q + cpr
    ∨ signedDiff cpr angle q = angle - q - cpr := by
  unfold signedDiff
  dsimp only
  rw [rawDiff_emod hangle hq]
  split_ifs <;> omega

include hcpr

theorem signedDiff_range : -((cpr / 2 : Nat) : Int) ≤ signedDiff cpr angle q
    ∧ signedDiff cpr angle q ≤ (cpr : Int) - 1 - ((cpr / 2 : Nat) : Int) := by
  unfold signedDiff
  dsimp only
  rw [rawDiff_emod hangle hq]
  split_ifs <;> omega

end

/-- A correction by the signed circular difference leaves the angle at the index position (R17). -/
theorem AbsPos.correct_angle {cpr q : Nat} {p : AbsPos} (hp : p.angle < cpr) (hq : q < cpr) :
    (p.correct cpr (signedDiff cpr p.angle q)).angle = q := by
  unfold AbsPos.correct
  dsimp only
  obtain e | e | e := signedDiff_cases hp hq <;> rw [e] <;> split_ifs <;> dsimp only <;> omega

/-- Settles O21. The signed circular difference is the raw one up to one revolution, so the correction ends at the index
position, across at most one wrap. -/
theorem correctionsEndAtTheIndexPosition : Obligations.CorrectionsEndAtTheIndexPosition := by
  rintro cpr q p d hcpr hp hq rfl
  obtain ⟨hlow, hhigh⟩ := signedDiff_range hcpr hp hq
  refine ⟨hlow, hhigh, ?_, AbsPos.correct_angle hp hq, fun hneg => ?_, fun hover => ?_, fun h0 hlt => ?_, fun _ => rfl⟩
  · obtain e | e | e := signedDiff_cases hp hq <;> rw [e]
    · simp
    · simp
    · simp [sub_sub_cancel_left]
  · simp [AbsPos.correct, hneg]
  · simp [AbsPos.correct, hover, not_lt.mpr ((Int.natCast_nonneg cpr).trans hover)]
  · simp [AbsPos.correct, not_lt.mpr h0, not_le.mpr hlt]

end Sys2Proof.Machine
end

section
/-! SUPPORT. The angles and the index-error count (R10, R16 to R18, R36, R39, R82, R88, R105, R107, R114): every angle stays
below CPR through each act of an event and each request, and the error count stays within its limit. -/

namespace Sys2Proof.Machine

/-! ## A commit is pending in LOCKED alone (R114) -/

/-- A pending commit stands in LOCKED. -/
def State.commitLocked (s : State) : Prop := s.bsc.commit.isSome → s.rft.sync.state = .locked

/-- While the BSC has still to take a change of sync state, a pending commit may stand in LOST. -/
def State.commitHeld (s : State) : Prop :=
  s.bsc.commit.isSome → s.rft.sync.state = .locked ∨ s.rft.sync.state = .lost

theorem State.bscLeft_commitLocked (s : State) : s.bscLeft.commitLocked := by
  intro hc
  unfold State.bscLeft at hc ⊢
  by_contra hl
  simp [hl] at hc

theorem State.commitLocked.none {s : State} (h : s.commitLocked) (hl : s.rft.sync.state ≠ .locked) :
    s.bsc.commit = none := by
  cases hc : s.bsc.commit with
  | none => rfl
  | some c => exact absurd (h (by simp [hc])) hl

theorem State.commitLocked_eventsKept : EventsKept State.commitLocked State.commitHeld := by
  constructor
  case mid => exact fun s h hc => .inl (h hc)
  case swapped => exact fun _ _ _ _ _ hc => by simp at hc
  case swappedMid => exact fun _ _ _ _ _ hc => by simp at hc
  case left => exact fun s _ => s.bscLeft_commitLocked
  case failSeek =>
    intro r o c s hr h hc
    rw [State.failSeek_bsc, h.none (by simp [hr, Sync.state])] at hc
    simp at hc
  case lock => exact fun _ _ _ _ _ => rfl
  case lose => exact fun _ _ _ _ _ _ => .inr rfl
  case load => exact fun _ _ _ _ _ => rfl
  case mark => exact fun _ _ _ _ _ _ _ _ => rfl
  case indexError =>
    intro k r r' s _ _ _ _ _
    unfold State.indexError
    dsimp only
    split
    · exact .inr rfl
    · exact .inl rfl
  case countQuad =>
    intros
    simpa [State.commitLocked]
  all_goals
    intros
    assumption

theorem State.commitLocked_kept : Kept State.commitLocked := by
  have hevents := State.commitLocked_eventsKept
  have hfree : ∀ s : State, s.bsc.commit = none → s.commitLocked := fun s hnone hc => by simp [hnone] at hc
  constructor
  case reset => exact fun _ _ _ _ => hfree _ rfl
  case step => exact fun d turn s _ => hevents.takeStep d turn s
  case stepSpeed => exact fun d s _ => hevents.stepSpeed d s
  case quadError => exact fun turn s _ => hevents.takeQuadError turn s
  case countQuad => exact fun s _ => hevents.countQuad s
  case indexEvent => exact fun turn s _ => hevents.takeIndexEvent turn s
  case refEdge => exact hevents.takeRefEdge
  case lcuEdge =>
    intro n back s h
    unfold State.takeLcuEdge
    split <;> exact h
  case seek => exact fun src p s _ _ _ _ => State.bscLeft_commitLocked _
  case seekAbort => exact fun r c s => hevents.failSeek r _ c s
  case release => exact fun s _ _ => State.bscLeft_commitLocked _
  case startCommit => exact fun c s hl _ _ _ _ _ => hl
  case cancelCommit => exact fun c s _ _ => hfree _ rfl
  case setSpeed =>
    intros
    simpa [State.commitLocked]
  all_goals
    intros
    assumption

/-! ## The angles -/

/-- The angle of a pending AT_POSITION commit lies below CPR. -/
def State.commitAngleBelow (s : State) : Prop :=
  ∀ c, s.bsc.commit = some c → ∀ p, c.policy = .atPosition p → p < s.pcu.axis.cpr

/-- CPR is in its range, and below it lie the angle, the angles of the records and that of a pending commit. -/
def State.anglesBelow (s : State) : Prop :=
  (8 ≤ s.pcu.axis.cpr ∧ s.pcu.axis.cpr ≤ 65536) ∧ s.pcu.pos.angle < s.pcu.axis.cpr
    ∧ s.rft.sync.below s.pcu.axis.cpr ∧ s.commitAngleBelow

/-- The state with its memories: all that `axisSound` asks but that a commit stands in LOCKED. -/
def State.rangesSound (s : State) : Prop := s.anglesBelow ∧ s.tev.memoriesBelow s.pcu.axis.cpr

theorem State.axisSound_iff (s : State) : s.axisSound ↔ s.rangesSound ∧ s.commitLocked := by
  constructor
  · rintro ⟨hlow, hhigh, hangle, hsync, hcommit, hmemories⟩
    refine ⟨⟨⟨⟨hlow, hhigh⟩, hangle, hsync, fun c hc => (hcommit c hc).2⟩, hmemories⟩, fun hc => ?_⟩
    obtain ⟨c, hc⟩ := Option.isSome_iff_exists.mp hc
    exact (hcommit c hc).1
  · rintro ⟨⟨⟨⟨hlow, hhigh⟩, hangle, hsync, hcommit⟩, hmemories⟩, hlocked⟩
    exact ⟨hlow, hhigh, hangle, hsync, fun c hc => ⟨hlocked (by simp [hc]), hcommit c hc⟩, hmemories⟩

theorem Tev.memoriesBelow_of_cleared (t : Tev) (cpr : Nat) : t.clearMemories.memoriesBelow cpr := by
  intro i m hm
  simp at hm

theorem effectivePosition_below (x : EvalInputs) (tab : TrackTable) (h : 8 ≤ x.cpr) : effectivePosition x tab < x.cpr := by
  unfold effectivePosition
  split <;> exact Nat.mod_lt _ (by omega)

/-- An evaluation leaves a track's memory, or records the effective position (R88). -/
theorem Track.evaluate_memory (x : EvalInputs) (tab : TrackTable) (t : Track) :
    (t.evaluate x tab).memory = t.memory
      ∨ (t.evaluate x tab).memory = some { position := effectivePosition x tab, dir := x.dir } := by
  show (t.hysteresis x tab).memory = _ ∨ (t.hysteresis x tab).memory = _
  unfold Track.hysteresis
  split
  · exact .inr rfl
  · exact .inl rfl

theorem State.evaluate_memoriesBelow {s : State} (h : s.rangesSound) : s.evaluate.tev.memoriesBelow s.pcu.axis.cpr := by
  obtain ⟨⟨⟨hlow, -⟩, -⟩, hmemories⟩ := h
  intro i m hm
  rw [s.evaluate_track] at hm
  obtain e | e := (s.tev.tracks.get i).evaluate_memory s.evalInputs (s.cts.active.tracks.get i) <;> rw [e] at hm
  · exact hmemories i m hm
  · cases hm
    exact effectivePosition_below _ _ hlow

/-- Setting the mode of a track leaves every memory. -/
theorem State.setMode_memoriesBelow {s : State} {cpr : Nat} (h : s.tev.memoriesBelow cpr) (t : Fin 8) (m : TrackMode)
    (f : SafeLevel) (p : Polarity) (b : Bool) : (s.setMode t m f p b).tev.memoriesBelow cpr := by
  intro i x hx
  simp only [State.setMode, Oct.get_set] at hx
  split at hx
  case isTrue e => exact h i x (e ▸ hx)
  case isFalse => exact h i x hx

theorem State.indexError_below {k : FaultKind} {r' : RefRecord} {s : State} {cpr : Nat}
    (h : (Sync.locked r').below cpr) : (s.indexError k r').rft.sync.below cpr := by
  unfold State.indexError
  dsimp only
  split <;> exact h

theorem State.lockRecord_below {r : SeekRecord} {now : Word32} {cpr : Nat} (h : (Sync.seeking r).below cpr) :
    (Sync.locked (r.lockRecord now)).below cpr := by
  refine ⟨h.1, fun ix hix => ?_⟩
  simp only [SeekRecord.lockRecord] at hix
  split at hix
  · cases hix
    exact ⟨h.1, h.1⟩
  · cases hix

theorem State.loadChecks_below {r : RefRecord} {s : State} {cpr : Nat} (h : (Sync.locked r).below cpr) :
    (Sync.locked (s.loadChecks r)).below cpr := by
  unfold State.loadChecks
  split <;> exact h

theorem State.bscLeft_commitAngleBelow {s : State} (h : s.commitAngleBelow) : s.bscLeft.commitAngleBelow := by
  intro c hc
  simp only [State.bscLeft] at hc
  split at hc
  · exact h c hc
  · cases hc

theorem State.rangesSound_eventsKept : EventsKept State.rangesSound State.rangesSound := by
  constructor
  case move =>
    rintro d s ⟨⟨hcpr, hangle, hsync, hcommit⟩, hmemories⟩
    exact ⟨⟨hcpr, AbsPos.step_below hcpr.1 hangle d, hsync, hcommit⟩, hmemories⟩
  case swapped =>
    rintro c p s - ⟨⟨hcpr, hangle, hsync, -⟩, -⟩
    exact ⟨⟨hcpr, hangle, hsync, fun _ hc => by simp at hc⟩, Tev.memoriesBelow_of_cleared _ _⟩
  case swappedMid =>
    rintro c p s - ⟨⟨hcpr, hangle, hsync, -⟩, -⟩
    exact ⟨⟨hcpr, hangle, hsync, fun _ hc => by simp at hc⟩, Tev.memoriesBelow_of_cleared _ _⟩
  case left =>
    rintro s ⟨⟨hcpr, hangle, hsync, hcommit⟩, hmemories⟩
    exact ⟨⟨hcpr, hangle, hsync, State.bscLeft_commitAngleBelow hcommit⟩, hmemories⟩
  case failSeek =>
    rintro r o c s - ⟨⟨hcpr, hangle, -, hcommit⟩, hmemories⟩
    exact ⟨⟨hcpr, hangle, trivial, hcommit⟩, hmemories⟩
  case lock =>
    rintro r s hr ⟨⟨hcpr, -, hsync, hcommit⟩, -⟩
    rw [hr] at hsync
    exact ⟨⟨hcpr, hsync.1, State.lockRecord_below hsync, hcommit⟩, Tev.memoriesBelow_of_cleared _ _⟩
  case lose =>
    rintro r c s hr ⟨⟨hcpr, hangle, hsync, hcommit⟩, hmemories⟩
    rw [hr] at hsync
    exact ⟨⟨hcpr, hangle, hsync, hcommit⟩, hmemories⟩
  case load =>
    rintro r s hr ⟨⟨hcpr, hangle, hsync, hcommit⟩, hmemories⟩
    rw [hr] at hsync
    exact ⟨⟨hcpr, hangle, State.loadChecks_below hsync, hcommit⟩, hmemories⟩
  case mark =>
    rintro r r' s hr hfollows - ⟨⟨hcpr, hangle, hsync, hcommit⟩, hmemories⟩
    rw [hr] at hsync
    exact ⟨⟨hcpr, hangle, hfollows _ hangle hsync, hcommit⟩, hmemories⟩
  case indexError =>
    rintro k r r' s hr hfollows - ⟨⟨hcpr, hangle, hsync, hcommit⟩, hmemories⟩
    rw [hr] at hsync
    refine ⟨⟨by simpa, by simpa, ?_, by simpa [State.commitAngleBelow]⟩, by simpa⟩
    rw [State.indexError_pcu]
    exact State.indexError_below (hfollows _ hangle hsync)
  case correct =>
    rintro r ix s hr hix ⟨⟨hcpr, hangle, hsync, hcommit⟩, -⟩
    have hix : ix.below s.pcu.axis.cpr := by
      rw [hr] at hsync
      exact hsync.2 ix hix
    refine ⟨⟨hcpr, ?_, hsync, hcommit⟩, Tev.memoriesBelow_of_cleared _ _⟩
    show (s.pcu.pos.correct _ _).angle < s.pcu.axis.cpr
    rw [AbsPos.correct_angle hangle hix.1]
    exact hix.1
  case countQuad =>
    intros
    simpa [State.rangesSound, State.anglesBelow, State.commitAngleBelow]
  all_goals
    intros
    assumption

/-- AXIS_SET is refused outside FREE, so it finds no record, and no commit where a commit stands in LOCKED alone. -/
theorem State.setAxis_rangesSound {s : State} {a : AxisConfig} (hlow : 8 ≤ a.cpr) (hhigh : a.cpr ≤ 65536)
    (hfree : s.rft.sync.state = .free) (hlocked : s.commitLocked) : (s.setAxis a).rangesSound := by
  have hsync : s.rft.sync = .free := by
    cases h : s.rft.sync <;> simp_all [Sync.state]
  have hnone : s.bsc.commit = none := hlocked.none (by simp [hfree])
  refine ⟨⟨⟨hlow, hhigh⟩, Nat.lt_of_lt_of_le (Nat.succ_pos 7) hlow, ?_, fun c hc => ?_⟩, Tev.memoriesBelow_of_cleared _ _⟩
  · simp [hsync, Sync.below]
  · rw [State.setAxis_bsc, hnone] at hc
    cases hc

theorem State.reset_rangesSound : State.reset.rangesSound := by
  refine ⟨⟨⟨by decide, by decide⟩, by decide, trivial, fun c hc => by cases hc⟩, fun i m hm => ?_⟩
  have hm : (Tev.reset.tracks.get i).memory = some m := hm
  rw [Tev.reset_get] at hm
  cases hm

theorem State.axisSound_kept : Kept State.axisSound := by
  have hevents := State.rangesSound_eventsKept
  have hlocked := State.commitLocked_kept
  have both : ∀ {s t : State}, s.axisSound → (s.rangesSound → t.rangesSound) → (s.commitLocked → t.commitLocked) →
      t.axisSound := by
    intro s t h hr hl
    rw [State.axisSound_iff] at h ⊢
    exact ⟨hr h.1, hl h.2⟩
  constructor
  case reset =>
    intro cause n b s
    exact (State.axisSound_iff _).mpr ⟨State.reset_rangesSound, hlocked.reset cause n b s⟩
  case evaluate => exact fun s h => both h (fun h => ⟨h.1, State.evaluate_memoriesBelow h⟩) id
  case step => exact fun d turn s hd h => both h (hevents.takeStep d turn s) (hlocked.step d turn s hd)
  case stepSpeed => exact fun d s hd h => both h (hevents.stepSpeed d s) (hlocked.stepSpeed d s hd)
  case quadError => exact fun turn s hd h => both h (hevents.takeQuadError turn s) (hlocked.quadError turn s hd)
  case countQuad => exact fun s hd h => both h (hevents.countQuad s) (hlocked.countQuad s hd)
  case indexEvent => exact fun turn s hd h => both h (hevents.takeIndexEvent turn s) (hlocked.indexEvent turn s hd)
  case refEdge => exact fun n s h => both h (hevents.takeRefEdge n s) (hlocked.refEdge n s)
  case lcuEdge =>
    intro n back s h
    unfold State.takeLcuEdge
    split <;> exact h
  case setAxis =>
    intro a s hlow hhigh hfree _ _ h
    rw [State.axisSound_iff] at h ⊢
    exact ⟨State.setAxis_rangesSound hlow hhigh hfree h.2, h.2⟩
  case positionSet =>
    intro q s hq _ h
    refine both h (fun h => ?_) id
    obtain ⟨⟨hcpr, -, hsync, hcommit⟩, -⟩ := h
    exact ⟨⟨hcpr, hq, hsync, hcommit⟩, Tev.memoriesBelow_of_cleared _ _⟩
  case seek =>
    intro src p s hq hseek hroom h
    refine both h (fun h => ?_) (hlocked.seek src p s hq hseek hroom)
    obtain ⟨⟨hcpr, hangle, -, hcommit⟩, hmemories⟩ := h
    exact ⟨⟨hcpr, hangle, ⟨hq, hangle⟩, State.bscLeft_commitAngleBelow hcommit⟩, hmemories⟩
  case seekAbort => exact fun r c s hr h => both h (hevents.failSeek r _ c s hr) (hlocked.seekAbort r c s hr)
  case release =>
    intro s hsync h
    refine both h (fun h => ?_) (hlocked.release s hsync)
    obtain ⟨⟨hcpr, hangle, -, hcommit⟩, hmemories⟩ := h
    exact ⟨⟨hcpr, hangle, trivial, State.bscLeft_commitAngleBelow hcommit⟩, hmemories⟩
  case commitNow => exact fun s _ h => both h (fun h => ⟨h.1, Tev.memoriesBelow_of_cleared _ _⟩) id
  case startCommit =>
    intro c s hl hnone hroom hp h
    refine both h (fun h => ?_) (hlocked.startCommit c s hl hnone hroom hp)
    obtain ⟨⟨hcpr, hangle, hsync, -⟩, hmemories⟩ := h
    refine ⟨⟨hcpr, hangle, hsync, fun c' hc' => ?_⟩, hmemories⟩
    cases hc'
    exact hp
  case cancelCommit =>
    intro c s hc h
    refine both h (fun h => ?_) (hlocked.cancelCommit c s hc)
    obtain ⟨⟨hcpr, hangle, hsync, -⟩, hmemories⟩ := h
    exact ⟨⟨hcpr, hangle, hsync, fun _ hc' => by cases hc'⟩, hmemories⟩
  case setEnable => exact fun e s h => both h (fun h => ⟨h.1, State.evaluate_memoriesBelow (s := { s with tev := _ }) h⟩) id
  case setMode =>
    intro t m f p b s h
    refine both h (fun h => ⟨h.1, ?_⟩) id
    exact State.evaluate_memoriesBelow ⟨h.1, State.setMode_memoriesBelow h.2 t m f p b⟩
  case setSpeed =>
    intros
    simpa [State.axisSound, State.commitBelow]
  all_goals
    intros
    assumption

/-! ## The index-error count -/

theorem State.checksSound_eventsKept : EventsKept State.checksSound State.checksSound := by
  constructor
  case failSeek => exact fun _ _ _ _ _ ⟨hconf, hforce, _⟩ => ⟨hconf, hforce, trivial⟩
  case lock => exact fun _ _ _ ⟨hconf, _, _⟩ => ⟨hconf, hconf, Nat.zero_le _⟩
  case lose =>
    rintro r c s hr ⟨hconf, hforce, herrors⟩
    rw [hr] at herrors
    exact ⟨hconf, hforce, Nat.le_succ_of_le herrors⟩
  case load =>
    rintro r s hr ⟨hconf, hforce, herrors⟩
    rw [hr] at herrors
    refine ⟨hconf, hconf, ?_⟩
    unfold State.loadChecks
    split
    · exact Nat.zero_le _
    · exact herrors
  case mark =>
    rintro r r' s hr - hconsec ⟨hconf, hforce, herrors⟩
    rw [hr] at herrors
    refine ⟨hconf, hforce, ?_⟩
    show r'.consec ≤ 6
    obtain e | e := hconsec <;> rw [e]
    · exact herrors
    · exact Nat.zero_le _
  case indexError =>
    rintro k r r' s hr - hconsec ⟨hconf, hforce, herrors⟩
    rw [hr] at herrors
    have herrors : r.consec ≤ 6 := herrors
    refine ⟨by simpa, by simpa, ?_⟩
    unfold State.indexError
    dsimp only
    split
    · show r'.consec + 1 ≤ 7
      omega
    · show r'.consec + 1 ≤ 6
      omega
  case countQuad =>
    intros
    simpa [State.checksSound]
  all_goals
    intros
    assumption

theorem State.reset_checksSound : State.reset.checksSound := ⟨by decide, by decide, trivial⟩

theorem State.checksSound_kept : Kept State.checksSound := by
  have hevents := State.checksSound_eventsKept
  constructor
  case reset => exact fun _ _ _ _ => State.reset_checksSound
  case step => exact fun d turn s _ => hevents.takeStep d turn s
  case stepSpeed => exact fun d s _ => hevents.stepSpeed d s
  case quadError => exact fun turn s _ => hevents.takeQuadError turn s
  case countQuad => exact fun s _ => hevents.countQuad s
  case indexEvent => exact fun turn s _ => hevents.takeIndexEvent turn s
  case refEdge => exact hevents.takeRefEdge
  case lcuEdge =>
    intro n back s h
    unfold State.takeLcuEdge
    split <;> exact h
  case checks => exact fun c s hlow hhigh ⟨_, hrest⟩ => ⟨⟨hlow, hhigh⟩, hrest⟩
  case seek => exact fun _ _ _ _ _ _ ⟨hconf, hforce, _⟩ => ⟨hconf, hforce, trivial⟩
  case seekAbort => exact fun r c s => hevents.failSeek r _ c s
  case release => exact fun _ _ ⟨hconf, hforce, _⟩ => ⟨hconf, hforce, trivial⟩
  case setSpeed =>
    intros
    simpa [State.checksSound]
  all_goals
    intros
    assumption

/-- Settles O53. Each act of an event and each request keeps the angles below CPR and the error count within its bound; a
new CPR is accepted in FREE alone, where no record and no commit holds an angle. -/
theorem anglesAndErrorCountsStayInRange : Obligations.AnglesAndErrorCountsStayInRange :=
  ⟨fun _ _ => State.axisSound_kept.next, fun _ _ => State.checksSound_kept.next⟩

end Sys2Proof.Machine
end

section
/-! SUPPORT. What a request leaves of the rest of the part, said once for every owner: the commands waiting, the link but for its
counters and a REQUEST reset, and the banks but for one swap or one edit of an unlocked SHADOW; and that every request row
is the execution of the oldest request by such an owner. -/

namespace Sys2Proof.Machine

/-! ## What an owner leaves -/

/-- ACTIVE and the generation stay, or a swap has been made; SHADOW stays while a commit is pending (R66, R68, R77). -/
def State.banksMoved (s t : State) : Prop :=
  ((t.cts.active = s.cts.active ∧ t.cts.generation = s.cts.generation)
      ∨ (t.cts.active = s.cts.shadow ∧ t.cts.shadow = s.cts.shadow ∧ t.cts.generation = s.cts.generation + 1
        ∧ t.cts.dirty = false))
    ∧ (s.bsc.commit ≠ none → t.cts.shadow = s.cts.shadow)

/-- What the effect of a request leaves of the state in which its owner finds it. -/
structure State.Acted (s t : State) : Prop where
  pending : t.pending = s.pending
  link : ∃ counters marked, t.lkp = { s.lkp with counters := counters, resetPending := marked }
  banks : s.banksMoved t

/-- An owner's act that leaves what `State.Acted` says. -/
def Acts (act : Request → State → State × Answer) : Prop := ∀ (r : Request) (s : State), s.Acted (act r s).1

/-- An owner that leaves what `State.Acted` says. -/
def Owner.Acts (o : Owner) : Prop := ∀ (s : State) (p : List Byte), s.Acted (o s p).1

theorem State.banksMoved_of_eq {s t : State} (h : t.cts = s.cts) : s.banksMoved t := by
  simp [State.banksMoved, h]

/-- An edit of SHADOW while no commit locks it (R68). -/
theorem State.banksMoved_of_unlocked {s t : State} (hc : s.bsc.commit = none) (ha : t.cts.active = s.cts.active)
    (hg : t.cts.generation = s.cts.generation) : s.banksMoved t :=
  ⟨.inl ⟨ha, hg⟩, fun h => absurd hc h⟩

namespace State.Acted

theorem link_of_eq {s t : State} (h : t.lkp = s.lkp) :
    ∃ counters marked, t.lkp = { s.lkp with counters := counters, resetPending := marked } :=
  ⟨s.lkp.counters, s.lkp.resetPending, h⟩

/-- An effect on blocks other than the link and the banks. -/
theorem elsewhere {s t : State} (hp : t.pending = s.pending) (hl : t.lkp = s.lkp) (hc : t.cts = s.cts) : s.Acted t :=
  ⟨hp, link_of_eq hl, State.banksMoved_of_eq hc⟩

/-- An edit of SHADOW while no commit locks it. -/
theorem edit {s t : State} (hn : s.bsc.commit = none) (hp : t.pending = s.pending) (hl : t.lkp = s.lkp)
    (ha : t.cts.active = s.cts.active) (hg : t.cts.generation = s.cts.generation) : s.Acted t :=
  ⟨hp, link_of_eq hl, State.banksMoved_of_unlocked hn ha hg⟩

theorem evaluated (s : State) : s.Acted s.evaluate := elsewhere rfl rfl rfl

end State.Acted

/-! ## The owners -/

section
open State.Acted

theorem ownLinkStatus_acts : Owner.Acts ownLinkStatus := fun s p => by
  obtain e | ⟨c, e⟩ := ownLinkStatus_effect s p <;> rw [e]
  · exact evaluated s
  · exact ⟨rfl, ⟨c, s.lkp.resetPending, rfl⟩, State.banksMoved_of_eq rfl⟩

theorem ownReset_acts : Owner.Acts ownReset := fun s _ => ⟨rfl, ⟨s.lkp.counters, true, rfl⟩, State.banksMoved_of_eq rfl⟩

theorem ownAxisSet_acts : Owner.Acts ownAxisSet := fun s p => by
  obtain e | ⟨a, -, -, -, -, -, -, e⟩ := ownAxisSet_effect s p <;> rw [e]
  · exact evaluated s
  · exact elsewhere rfl rfl rfl

theorem ownPositionSet_acts : Owner.Acts ownPositionSet := fun s p => by
  obtain e | ⟨q, -, -, e⟩ := ownPositionSet_effect s p <;> rw [e]
  · exact evaluated s
  · exact elsewhere rfl rfl rfl

theorem ownIndexCheckSet_acts : Owner.Acts ownIndexCheckSet := fun s p => by
  obtain e | ⟨c, -, -, e⟩ := ownIndexCheckSet_effect s p <;> rw [e]
  · exact evaluated s
  · exact elsewhere rfl rfl rfl

theorem ownSeek_acts : Owner.Acts ownSeek := fun s p => by
  obtain e | ⟨src, -, -, -, e⟩ := ownSeek_effect s p <;> rw [e]
  · exact evaluated s
  · exact elsewhere rfl rfl rfl

theorem ownSeekAbort_acts : Owner.Acts ownSeekAbort := fun s p => by
  obtain e | ⟨r, -, e⟩ := ownSeekAbort_effect s p <;> rw [e]
  · exact evaluated s
  · exact elsewhere rfl rfl rfl

theorem ownRelease_acts : Owner.Acts ownRelease := fun s p => by
  obtain e | ⟨r, -, e⟩ | ⟨-, e⟩ := ownRelease_effect s p <;> rw [e]
  · exact evaluated s
  · exact elsewhere rfl rfl rfl
  · exact elsewhere rfl rfl rfl

theorem ownSpeedSet_acts : Owner.Acts ownSpeedSet := fun s p => by
  obtain e | ⟨d, m, l, -, -, -, e⟩ := ownSpeedSet_effect s p <;> rw [e]
  · exact evaluated s
  · exact elsewhere (State.setSpeed_pending ..) (State.setSpeed_lkp ..) (State.setSpeed_cts ..)

theorem ownWindowAdd_acts : Owner.Acts ownWindowAdd := fun s p => by
  obtain e | ⟨t, w, -, -, -, hc, -, -, -, e⟩ := ownWindowAdd_effect s p <;> rw [e]
  · exact evaluated s
  · exact edit hc rfl rfl rfl rfl

theorem ownWindowRemove_acts : Owner.Acts ownWindowRemove := fun s p => by
  obtain e | ⟨t, i, -, hc, e⟩ := ownWindowRemove_effect s p <;> rw [e]
  · exact evaluated s
  · exact edit hc rfl rfl rfl rfl

theorem ownTrackClear_acts : Owner.Acts ownTrackClear := fun s p => by
  obtain e | ⟨t, hc, e⟩ := ownTrackClear_effect s p <;> rw [e]
  · exact evaluated s
  · exact edit hc rfl rfl rfl rfl

theorem ownTrackParamSet_acts : Owner.Acts ownTrackParamSet := fun s p => by
  obtain e | ⟨t, l, m, -, hc, e⟩ := ownTrackParamSet_effect s p <;> rw [e]
  · exact evaluated s
  · exact edit hc rfl rfl rfl rfl

theorem ownShadowRevert_acts : Owner.Acts ownShadowRevert := fun s p => by
  obtain e | ⟨hc, e⟩ := ownShadowRevert_effect s p <;> rw [e]
  · exact evaluated s
  · exact edit hc rfl rfl rfl rfl

theorem ownCommitNow_acts : Owner.Acts ownCommitNow := fun s p => by
  obtain e | ⟨hc, e⟩ := ownCommitNow_effect s p <;> rw [e]
  · exact evaluated s
  · exact ⟨rfl, link_of_eq rfl, .inr ⟨rfl, rfl, rfl, rfl⟩, fun h => absurd hc h⟩

theorem ownCommitAtPosition_acts : Owner.Acts ownCommitAtPosition := fun s p => by
  obtain e | ⟨-, -, -, -, e⟩ := ownCommitAtPosition_effect s p <;> rw [e]
  · exact evaluated s
  · exact elsewhere rfl rfl rfl

theorem ownCommitAtIndex_acts : Owner.Acts ownCommitAtIndex := fun s p => by
  obtain e | ⟨-, -, -, e⟩ := ownCommitAtIndex_effect s p <;> rw [e]
  · exact evaluated s
  · exact elsewhere rfl rfl rfl

theorem ownCommitCancel_acts : Owner.Acts ownCommitCancel := fun s p => by
  obtain e | ⟨c, -, e⟩ := ownCommitCancel_effect s p <;> rw [e]
  · exact evaluated s
  · exact elsewhere rfl rfl rfl

theorem ownOutputEnable_acts : Owner.Acts ownOutputEnable := fun s p => by
  obtain e | ⟨b, e⟩ := ownOutputEnable_effect s p <;> rw [e]
  · exact evaluated s
  · exact elsewhere rfl rfl rfl

theorem ownTrackModeSet_acts : Owner.Acts ownTrackModeSet := fun s p => by
  obtain e | ⟨t, m, f, q, b, e⟩ := ownTrackModeSet_effect s p <;> rw [e]
  · exact evaluated s
  · exact elsewhere rfl rfl rfl

theorem ownTrackStatus_acts : Owner.Acts ownTrackStatus := fun s p => by
  rw [ownTrackStatus_effect]
  exact evaluated s

theorem ownTrackList_acts : Owner.Acts ownTrackList := fun s p => by
  rw [ownTrackList_effect]
  exact evaluated s

theorem ownLatchSet_acts : Owner.Acts ownLatchSet := fun s p => by
  obtain e | ⟨n, k, m, u, f, -, e⟩ := ownLatchSet_effect s p <;> rw [e]
  · exact evaluated s
  · exact elsewhere rfl rfl rfl

theorem ownLatchArm_acts : Owner.Acts ownLatchArm := fun s p => by
  obtain e | ⟨n, -, e⟩ := ownLatchArm_effect s p <;> rw [e]
  · exact evaluated s
  · exact elsewhere rfl rfl rfl

theorem ownCaptureRead_acts : Owner.Acts ownCaptureRead := fun s p => by
  obtain e | ⟨k, e⟩ := ownCaptureRead_effect s p <;> rw [e]
  · exact evaluated s
  · exact elsewhere rfl rfl rfl

theorem ownReportSet_acts : Owner.Acts ownReportSet := fun s p => by
  obtain e | ⟨b, n, e⟩ := ownReportSet_effect s p <;> rw [e]
  · exact evaluated s
  · exact elsewhere rfl rfl rfl

theorem ownReportGrant_acts : Owner.Acts ownReportGrant := fun s p => by
  obtain e | ⟨g, e⟩ := ownReportGrant_effect s p <;> rw [e]
  · exact evaluated s
  · exact elsewhere rfl rfl rfl

theorem checkLength_acts {o : Owner} (h : Owner.Acts o) : Acts (checkLength o) := by
  intro r s
  unfold checkLength
  split
  · exact h s _
  · exact evaluated s

/-- An owner that only reads, once the sample's step, stall expiry and decay have been taken. -/
theorem owner_acts_of_elsewhere {o : Owner}
    (h : ∀ s p, (o s p).1.pending = s.pending ∧ (o s p).1.lkp = s.lkp ∧ (o s p).1.cts = s.cts) : Owner.Acts o :=
  fun s p => elsewhere (h s p).1 (h s p).2.1 (h s p).2.2

end

/-! ## The rows -/

/-- What a request row does: it executes the oldest request, in the state at hand or, where it reads the position or the
speed, in the state that has caught up, and then it leaves the banks alone. -/
def RunsAs (row : State → Out) (accepts : Request → Bool) (act : Request → State → State × Answer) : Prop :=
  ∀ s, row s = live (State.execute accepts act) s
    ∨ (s.nrstLow = false ∧ s.lkp.executes = true ∧ (∀ r u, (act r u).1.cts = u.cts)
      ∧ row s = live (State.execute accepts act) s.catchUp)

theorem checkLength_cts {o : Owner} (h : ∀ s p, (o s p).1.cts = s.cts) (r : Request) (u : State) :
    (checkLength o r u).1.cts = u.cts := by
  unfold checkLength
  split
  · exact h u _
  · rfl

theorem State.executes_of_offersKind {s : State} {kind : Byte} (h : s.offersKind kind = true) : s.lkp.executes = true := by
  unfold State.offersKind at h
  split at h
  · simp only [Bool.and_eq_true] at h
    exact h.1.1
  · cases h

theorem runsAs_afterStep {o : Owner} (h : ∀ s p, (o s p).1.cts = s.cts) (kind : Byte) :
    RunsAs (live (State.executeAfterStep kind o)) (fun r => decide (r.kind = kind)) (checkLength o) := by
  intro s
  cases hlow : s.nrstLow with
  | true => exact .inl (by simp [live, hlow])
  | false =>
    cases hoffers : s.offersKind kind with
    | true =>
      refine .inr ⟨rfl, State.executes_of_offersKind hoffers, checkLength_cts h, ?_⟩
      simp [live, hlow, State.executeAfterStep, hoffers, State.executeKind]
    | false => exact .inl (by simp [live, hlow, State.executeAfterStep, hoffers, State.executeKind])

theorem ownAxisSet_cts (s : State) (p : List Byte) : (ownAxisSet s p).1.cts = s.cts := by
  obtain e | ⟨a, -, -, -, -, -, -, e⟩ := ownAxisSet_effect s p <;> rw [e] <;> rfl

theorem ownTrackStatus_cts (s : State) (p : List Byte) : (ownTrackStatus s p).1.cts = s.cts := by
  rw [ownTrackStatus_effect]
  rfl

/-- Every request row executes the oldest request by an owner that leaves the rest of the part alone. -/
theorem exec_runsAs {c : Instr} (h : (requestKind c).isSome = true ∨ c = .badKind) :
    ∃ accepts act, Acts act ∧ RunsAs (exec c) accepts act := by
  have plain : ∀ {o : Owner} (accepts : Request → Bool), Owner.Acts o →
      (exec c = live (State.execute accepts (checkLength o))) → ∃ accepts act, Acts act ∧ RunsAs (exec c) accepts act :=
    fun accepts ho e => ⟨accepts, _, checkLength_acts ho, fun s => .inl (congrFun e s)⟩
  have after : ∀ {o : Owner} (kind : Byte), Owner.Acts o → (∀ s p, (o s p).1.cts = s.cts) →
      (exec c = live (State.executeAfterStep kind o)) → ∃ accepts act, Acts act ∧ RunsAs (exec c) accepts act :=
    fun kind ho hcts e => ⟨_, _, checkLength_acts ho, e ▸ runsAs_afterStep hcts kind⟩
  cases c
  case badKind => exact ⟨_, _, fun _ s => State.Acted.evaluated s, fun _ => .inl rfl⟩
  case identify => exact plain _ (fun s _ => .evaluated s) rfl
  case status => exact after _ (fun s _ => .evaluated s) (fun _ _ => rfl) rfl
  case linkStatus => exact plain _ ownLinkStatus_acts rfl
  case reset => exact plain _ ownReset_acts rfl
  case axisGet => exact after _ (fun s _ => .evaluated s) (fun _ _ => rfl) rfl
  case axisSet => exact after _ ownAxisSet_acts ownAxisSet_cts rfl
  case positionSet => exact plain _ ownPositionSet_acts rfl
  case indexCheckSet => exact plain _ ownIndexCheckSet_acts rfl
  case seek => exact plain _ ownSeek_acts rfl
  case seekAbort => exact plain _ ownSeekAbort_acts rfl
  case release => exact plain _ ownRelease_acts rfl
  case syncStatus => exact after _ (fun s _ => .evaluated s) (fun _ _ => rfl) rfl
  case speedSet => exact plain _ ownSpeedSet_acts rfl
  case speedGet => exact after _ (fun _ _ => .elsewhere rfl rfl rfl) (fun _ _ => rfl) rfl
  case windowAdd => exact plain _ ownWindowAdd_acts rfl
  case windowRemove => exact plain _ ownWindowRemove_acts rfl
  case trackClear => exact plain _ ownTrackClear_acts rfl
  case trackList => exact plain _ ownTrackList_acts rfl
  case trackParamSet => exact plain _ ownTrackParamSet_acts rfl
  case shadowRevert => exact plain _ ownShadowRevert_acts rfl
  case bankInfo => exact plain _ (fun s _ => .evaluated s) rfl
  case commitNow => exact plain _ ownCommitNow_acts rfl
  case commitAtPosition => exact plain _ ownCommitAtPosition_acts rfl
  case commitAtIndex => exact plain _ ownCommitAtIndex_acts rfl
  case commitCancel => exact plain _ ownCommitCancel_acts rfl
  case outputEnable => exact plain _ ownOutputEnable_acts rfl
  case trackModeSet => exact plain _ ownTrackModeSet_acts rfl
  case trackStatus => exact after _ ownTrackStatus_acts ownTrackStatus_cts rfl
  case latchSet => exact plain _ ownLatchSet_acts rfl
  case latchArm => exact plain _ ownLatchArm_acts rfl
  case captureRead => exact plain _ ownCaptureRead_acts rfl
  case captureFlush => exact plain _ (fun _ _ => .elsewhere rfl rfl rfl) rfl
  case reportSet => exact plain _ ownReportSet_acts rfl
  case reportGrant => exact plain _ ownReportGrant_acts rfl
  case reportStatus => exact plain _ (fun _ _ => .elsewhere rfl rfl rfl) rfl
  all_goals simp [requestKind] at h

/-! ## The execution of a request, taken apart -/

/-- The execution of the oldest request: nothing happens, or the owner acts in the state that pairs speed and angle. -/
theorem State.execute_cases (accepts : Request → Bool) (act : Request → State → State × Answer) (s : State) :
    s.execute accepts act = s
      ∨ ∃ r rest, s.lkp.inbound = r :: rest ∧ s.lkp.executes = true ∧ s.execute accepts act
        = (State.reply r (act r (s.pairSpeed.takeRequest rest)).2 (act r (s.pairSpeed.takeRequest rest)).1).settle := by
  unfold State.execute
  split
  case h_1 r rest hin =>
    split
    case isTrue h => exact .inr ⟨r, rest, hin, (Bool.and_eq_true_iff.mp h).1, rfl⟩
    case isFalse => exact .inl rfl
  case h_2 => exact .inl rfl

theorem State.execute_of_not_executes {accepts : Request → Bool} {act : Request → State → State × Answer} {s : State}
    (h : s.lkp.executes = false) : s.execute accepts act = s := by
  obtain e | ⟨r, rest, -, hx, -⟩ := s.execute_cases accepts act
  · exact e
  · simp [h] at hx

theorem live_of_fixed {f : State → State} {s : State} (h : f s = s) : live f s = .next s := by
  simp [live, h]

/-- A request row on a part that executes no request changes nothing. -/
theorem exec_request_of_not_executes {c : Instr} {s : State} (h : (requestKind c).isSome = true ∨ c = .badKind)
    (hx : s.lkp.executes = false) : exec c s = .next s := by
  obtain ⟨accepts, act, -, hruns⟩ := exec_runsAs h
  obtain e | ⟨-, hexecutes, -⟩ := hruns s
  · rw [e]
    exact live_of_fixed (State.execute_of_not_executes hx)
  · simp [hx] at hexecutes

end Sys2Proof.Machine
end

section
/-! SUPPORT. Every command ends in a next state, and what the queue of commands is to a step. -/

namespace Sys2Proof.Machine

theorem exec_request_pending {c : Instr} (h : (requestKind c).isSome = true ∨ c = .badKind) (s : State) :
    ∃ t, exec c s = .next t ∧ t.pending = s.pending := by
  obtain ⟨accepts, act, hacts, hruns⟩ := exec_runsAs h
  have executed : ∀ u : State, (u.execute accepts act).pending = u.pending := by
    intro u
    obtain e | ⟨r, rest, -, -, e⟩ := u.execute_cases accepts act <;> rw [e]
    simp [(hacts r _).pending]
  have lived : ∀ u : State, u.pending = s.pending → ∃ t, live (State.execute accepts act) u = .next t
      ∧ t.pending = s.pending := by
    intro u hu
    refine ⟨_, rfl, ?_⟩
    split
    · exact hu
    · rw [executed, hu]
  obtain e | ⟨-, -, -, e⟩ := hruns s <;> rw [e]
  · exact lived s rfl
  · exact lived s.catchUp s.catchUp_pending

/-- Settles O1. -/
theorem stepRunsTheCommandInFront : Obligations.StepRunsTheCommandInFront := by
  refine ⟨fun c rest s h => ?_, fun s h => ?_⟩ <;> simp [step, h]

/-- Settles O2. A request row leaves the queue of commands by its owner, every other row by the frame of its effect. -/
theorem everyCommandHasANextState : Obligations.EveryCommandHasANextState := by
  intro c s
  by_cases hrequest : (requestKind c).isSome = true ∨ c = .badKind
  · exact exec_request_pending hrequest s
  have lived : ∀ {f : State → State}, exec c s = live f s → (f s).pending = s.pending →
      ∃ t, exec c s = .next t ∧ t.pending = s.pending := by
    intro f e hf
    refine ⟨_, e, ?_⟩
    split
    · rfl
    · exact hf
  cases c
  case powerOnReset => exact ⟨_, rfl, rfl⟩
  case pinReset => exact ⟨_, rfl, rfl⟩
  case nrstLow => exact ⟨_, rfl, rfl⟩
  case requestReset b => exact lived rfl (by split <;> rfl)
  case startupIdleEnd => exact lived rfl (by split <;> simp)
  case settlingEnd => exact lived rfl (by split <;> simp)
  case latchSettlingEnd => exact lived rfl (by split <;> simp)
  case step =>
    refine lived (by simp only [exec, execStep]; rfl) ?_
    split <;> simp
  case quadError => exact lived rfl (by split <;> simp)
  case indexEvent => exact lived rfl (by split <;> simp)
  case latchEdge => exact lived rfl (by split <;> simp)
  case stallExpiry => exact lived rfl (by split <;> simp)
  case speedDecay => exact lived rfl (by split <;> simp)
  case holdoffEnd => exact lived rfl (by split <;> simp)
  case positionTimerExpiry => exact lived rfl (by split <;> simp)
  case noise => exact lived rfl rfl
  case lengthError => exact lived rfl rfl
  case byteError => exact lived rfl rfl
  case gapExpiry =>
    refine lived (by simp only [exec, execGapExpiry]; rfl) ?_
    rfl
  case frame => exact lived rfl rfl
  case transmitEnd =>
    refine lived (by simp only [exec, execTransmitEnd]; rfl) ?_
    split <;> simp
  case reportHandOver => exact lived rfl (by simp)
  case sample => exact lived rfl (by simp)
  case goodByte => exact lived rfl rfl
  case rxdIdle =>
    refine lived (by simp only [exec, execRxdIdle]; rfl) ?_
    rfl
  all_goals simp [requestKind] at hrequest

/-- Settles O7. RESET is carried out as every request is, with the mark that its own reply carries; a marked part executes
no request. -/
theorem resetRequestMarksTheReset : Obligations.ResetRequestMarksTheReset := by
  refine ⟨fun s r rest ho => ?marks, fun s c hmarked hrequest => ?refuses⟩
  case refuses => exact exec_request_of_not_executes hrequest (by simp [Lkp.executes, hmarked])
  case marks =>
    let marked : State := { s.takeRequest rest with lkp := { (s.takeRequest rest).lkp with resetPending := true } }
    have hact : checkLength ownReset r (s.takeRequest rest) = (marked.evaluate, ⟨.ok, []⟩) :=
      checkLength_of_offers ownReset _ ho
    have ⟨_, _, _, _, _, hkind, _⟩ := ho
    have hexec := State.execute_offers (accepts := fun r => decide (r.kind = 0x04)) ho (by simp [hkind]) hact
    obtain ⟨hanswered, hlink, hcounters, hpending⟩ :=
      State.reply_answeredWith (s := s) (u := marked.evaluate) (r := r) (rest := rest) (a := ⟨.ok, []⟩) rfl
    obtain ⟨b, hsettle, hb⟩ :=
      State.settle_evaluated (s := State.reply r ⟨.ok, []⟩ marked.evaluate) (u := marked) rfl rfl rfl rfl rfl
    have hframe : replyFrame r ⟨.ok, []⟩ = mkFrame r.seq 0x84 [0x00] := by
      simp [replyFrame, replyKind, hkind, requestLength?, Status.code]
    rw [hframe] at hanswered
    rw [hsettle] at hexec
    exact ⟨_, hexec, hanswered, hlink, hcounters, hpending, rfl, rfl, rfl, rfl, rfl, rfl, rfl, rfl, rfl, rfl, rfl, rfl,
      rfl, rfl, rfl, rfl, rfl, rfl, rfl, hb⟩

end Sys2Proof.Machine
end

section
/-! SUPPORT. When the banks change (R66, R68, R77): an event of a sample makes at most the swap of the pending commit, so the
events that are left of a sample make at most one, and a request edits or swaps only while no commit is pending. -/

namespace Sys2Proof.Machine

/-! ## The end of a commit -/

/-- From `s` to `t` the banks stay and no commit appears; or the commit pending in `s` has ended by the one swap. -/
def State.commitEnds (s t : State) : Prop :=
  (t.cts = s.cts ∧ (s.bsc.commit = none → t.bsc.commit = none))
    ∨ (s.bsc.commit ≠ none ∧ t.bsc.commit = none ∧ t.cts = s.cts.swap)

theorem State.commitEnds_refl (s : State) : s.commitEnds s := .inl ⟨rfl, id⟩

theorem State.commitEnds_of_eq {s t : State} (hc : t.cts = s.cts) (hb : t.bsc = s.bsc) : s.commitEnds t :=
  .inl ⟨hc, fun h => hb ▸ h⟩

theorem State.commitEnds.trans {s t u : State} (h : s.commitEnds t) (h' : t.commitEnds u) : s.commitEnds u := by
  obtain ⟨hc, hn⟩ | ⟨hs, hn, hc⟩ := h <;> obtain ⟨hc', hn'⟩ | ⟨hs', hn', hc'⟩ := h'
  · exact .inl ⟨hc'.trans hc, fun h => hn' (hn h)⟩
  · exact .inr ⟨fun h => hs' (hn h), hn', hc'.trans (by rw [hc])⟩
  · exact .inr ⟨hs, hn' hn, hc'.trans hc⟩
  · exact absurd hn hs'

theorem State.commitEnds_endSwapped {c : Commit} (p : AbsPos) {s : State} (h : s.bsc.commit = some c) :
    s.commitEnds (s.endSwapped c p) := .inr ⟨by simp [h], rfl, rfl⟩

theorem State.commitEnds_bscLeft (s : State) : s.commitEnds s.bscLeft := by
  refine .inl ⟨rfl, fun h => ?_⟩
  show (if _ then s.bsc.commit else none) = none
  rw [h, ite_self]

theorem State.commitEnds_eventsKept (s : State) : EventsKept s.commitEnds s.commitEnds := by
  have same : ∀ {t u : State}, s.commitEnds t → u.cts = t.cts → u.bsc = t.bsc → s.commitEnds u :=
    fun h hc hb => h.trans (State.commitEnds_of_eq hc hb)
  constructor
  case mid => exact fun _ h => h
  case swapped => exact fun c p t hc h => h.trans (State.commitEnds_endSwapped p hc)
  case swappedMid => exact fun c p t hc h => h.trans (State.commitEnds_endSwapped p hc)
  case left => exact fun t h => h.trans t.commitEnds_bscLeft
  all_goals
    intros
    rename_i h
    exact same h (by simp) (by simp)

/-! ## The events that are left of a sample -/

theorem State.commitEnds_takeEvent (e : FieldEvent) (s : State) : s.commitEnds (s.takeEvent e) := by
  have hevents := State.commitEnds_eventsKept s
  have hfree : s.commitEnds { s with free := s.free + 1 } := State.commitEnds_of_eq rfl rfl
  cases e
  case step =>
    unfold State.takeEvent
    dsimp only
    split
    · exact hevents.takeStep _ _ _ hfree
    · exact hfree
  case quadError => exact hevents.takeQuadError _ _ hfree
  case indexEvent => exact hevents.takeIndexEvent _ _ hfree
  case refEdge n => exact hevents.takeRefEdge n _ hfree
  all_goals exact State.commitEnds_of_eq (by simp [State.takeEvent]) (by simp [State.takeEvent])

theorem State.commitEnds_drainBy (next : State → Option FieldEvent) (n : Nat) (s : State) :
    s.commitEnds (State.drainBy next n s) := by
  induction n generalizing s with
  | zero => exact s.commitEnds_refl
  | succ n ih =>
    unfold State.drainBy
    split
    case h_1 e _ => exact (s.commitEnds_takeEvent e).trans (ih _)
    case h_2 => exact s.commitEnds_refl

theorem State.commitEnds_settle (s : State) : s.commitEnds s.settle := State.commitEnds_of_eq (by simp) (by simp)

theorem State.commitEnds_catchUp (s : State) : s.commitEnds s.catchUp := by
  unfold State.catchUp
  split
  · exact (s.commitEnds_drainBy _ _).trans (State.commitEnds_settle _)
  · exact s.commitEnds_refl

theorem State.commitEnds_takeSample (lv : Levels) (s : State) : s.commitEnds (s.takeSample lv) := by
  have hclosed : s.commitEnds s.closeSample := by
    unfold State.closeSample
    split
    · exact (s.commitEnds_drainBy _ _).trans (State.commitEnds_of_eq rfl rfl)
    · exact s.commitEnds_refl
  exact hclosed.trans (State.commitEnds_of_eq (by simp [State.takeSample]) (by simp [State.takeSample]))

/-! ## Every command -/

theorem State.commitEnds.banksMoved {s t : State} (h : s.commitEnds t) : s.banksMoved t := by
  obtain ⟨hc, -⟩ | ⟨-, -, hc⟩ := h
  · exact State.banksMoved_of_eq hc
  · rw [State.banksMoved, hc]
    exact ⟨.inr ⟨rfl, rfl, rfl, rfl⟩, fun _ => rfl⟩

/-- A command of the field or the link that clears nothing makes at most the swap of the pending commit. -/
theorem commitEnds_exec {c : Instr} {s t : State} (hexec : exec c s = .next t) (hclear : ¬s.clearedBy c)
    (hrequest : ¬((requestKind c).isSome = true ∨ c = .badKind)) : s.commitEnds t := by
  have hevents := State.commitEnds_eventsKept s
  have hrefl := s.commitEnds_refl
  have lived : ∀ {f : State → State}, live f s = .next t → s.commitEnds (f s) → s.commitEnds t := by
    intro f e hf
    obtain rfl := Host.Outcome.next.inj e
    split
    · exact hrefl
    · exact hf
  have settled : ∀ {u : State}, s.commitEnds u → s.commitEnds u.settle := fun h => h.trans (State.commitEnds_settle _)
  have blocks : ∀ {u : State}, u.cts = s.cts → u.bsc = s.bsc → s.commitEnds u := State.commitEnds_of_eq
  cases c
  case powerOnReset b => exact absurd (.inr ⟨_, _, b, .inl ⟨rfl, rfl, rfl⟩⟩) hclear
  case pinReset b => exact absurd (.inr ⟨_, _, b, .inr (.inl ⟨rfl, rfl, rfl⟩)⟩) hclear
  case nrstLow => exact absurd (.inl rfl) hclear
  case requestReset b =>
    cases hlow : s.nrstLow with
    | true =>
      obtain rfl : s = t := by simpa [exec, execRequestReset, live, hlow] using hexec
      exact hrefl
    | false =>
      refine lived hexec ?_
      split
      case isTrue htx => exact absurd (.inr ⟨_, _, b, .inr (.inr ⟨rfl, rfl, rfl, hlow, htx⟩)⟩) hclear
      case isFalse => exact hrefl
  case step turn =>
    simp only [exec, execStep] at hexec
    refine lived hexec ?_
    split
    · cases turn with
      | speed => exact settled (blocks (by simp [State.takeStepTurn]) (by simp [State.takeStepTurn]))
      | take turn => exact settled (hevents.takeStep _ _ _ hrefl)
    · exact hrefl
  case quadError turn =>
    refine lived hexec ?_
    split
    · cases turn with
      | count => exact settled (blocks (by simp [State.takeQuadTurn]) (by simp [State.takeQuadTurn]))
      | take turn => exact settled (hevents.takeQuadError _ _ hrefl)
    · exact hrefl
  case indexEvent turn =>
    refine lived hexec ?_
    split
    · exact settled (hevents.takeIndexEvent _ _ hrefl)
    · exact hrefl
  case latchEdge n turn =>
    refine lived hexec ?_
    split
    · cases turn with
      | both back => exact settled ((hevents.takeRefEdge n s hrefl).trans (State.commitEnds_of_eq (by simp) (by simp)))
      | rft => exact settled (hevents.takeRefEdge n s hrefl)
      | lcu back => exact settled (blocks (by simp [State.takeLatchEdge]) (by simp [State.takeLatchEdge]))
    · exact hrefl
  case sample lv => exact lived hexec (s.commitEnds_takeSample lv)
  case startupIdleEnd => exact lived hexec (by split; exacts [blocks (by simp) (by simp), hrefl])
  case settlingEnd => exact lived hexec (by split; exacts [blocks (by simp) (by simp), hrefl])
  case latchSettlingEnd => exact lived hexec (by split; exacts [blocks (by simp) (by simp), hrefl])
  case stallExpiry => exact lived hexec (by split; exacts [blocks (by simp) (by simp), hrefl])
  case speedDecay => exact lived hexec (by split; exacts [blocks (by simp) (by simp), hrefl])
  case holdoffEnd => exact lived hexec (by split; exacts [blocks (by simp) (by simp), hrefl])
  case positionTimerExpiry => exact lived hexec (by split; exacts [blocks (by simp) (by simp), hrefl])
  case transmitEnd =>
    simp only [exec, execTransmitEnd] at hexec
    refine lived hexec ?_
    split
    · exact blocks (by simp) (by simp)
    all_goals exact hrefl
  case reportHandOver => exact lived hexec (blocks (by simp) (by simp))
  case gapExpiry =>
    simp only [exec, execGapExpiry] at hexec
    exact lived hexec (blocks rfl rfl)
  case rxdIdle =>
    simp only [exec, execRxdIdle] at hexec
    exact lived hexec (blocks rfl rfl)
  case noise => exact lived hexec (blocks rfl rfl)
  case lengthError => exact lived hexec (blocks rfl rfl)
  case byteError => exact lived hexec (blocks rfl rfl)
  case frame => exact lived hexec (blocks rfl rfl)
  case goodByte => exact lived hexec (blocks rfl rfl)
  all_goals simp [requestKind] at hrequest

/-- A request that finds speed and angle of one sample swaps or edits while no commit is pending. -/
theorem banksMoved_exec_request {c : Instr} {s t : State} (hexec : exec c s = .next t)
    (hrequest : (requestKind c).isSome = true ∨ c = .badKind) (hpaired : s.sample.moved = true → s.speedDue = false) :
    s.banksMoved t := by
  obtain ⟨accepts, act, hacts, hruns⟩ := exec_runsAs hrequest
  have executed : ∀ u : State, u.pairSpeed = u → u.execute accepts act = u
      ∨ ∃ r rest, (u.execute accepts act).cts = (act r (u.takeRequest rest)).1.cts := by
    intro u hpair
    obtain e | ⟨r, rest, -, -, e⟩ := u.execute_cases accepts act
    · exact .inl e
    · refine .inr ⟨r, rest, ?_⟩
      rw [e, hpair]
      simp
  obtain e | ⟨hhigh, -, hcts, e⟩ := hruns s
  · obtain rfl := Host.Outcome.next.inj (e.symm.trans hexec)
    split
    · exact State.banksMoved_of_eq rfl
    · obtain e | ⟨r, rest, e⟩ := executed s (State.pairSpeed_eq hpaired)
      · rw [e]
        exact State.banksMoved_of_eq rfl
      · rw [State.banksMoved, e]
        exact (hacts r (s.takeRequest rest)).banks
  · obtain rfl := Host.Outcome.next.inj (e.symm.trans hexec)
    rw [State.catchUp_nrstLow, hhigh]
    have hcaught : (s.catchUp.execute accepts act).cts = s.catchUp.cts := by
      obtain e | ⟨r, rest, e⟩ := executed s.catchUp (State.pairSpeed_eq fun _ => s.catchUp_speedDue)
      · rw [e]
      · rw [e, hcts]
        rfl
    show s.banksMoved (s.catchUp.execute accepts act)
    rw [State.banksMoved, hcaught]
    exact s.commitEnds_catchUp.banksMoved

/-- Settles O60. Outside the requests the only change of the banks is the swap that ends the pending commit, and draining
makes it at most once; a request that pairs speed and angle acts through its owner alone. -/
theorem activeChangesAtASwapAlone : Obligations.ActiveChangesAtASwapAlone := by
  refine ⟨fun c s t hexec hclear hpaired => ?commands, fun s => ?catchesUp⟩
  case commands =>
    by_cases hrequest : (requestKind c).isSome = true ∨ c = .badKind
    · exact banksMoved_exec_request hexec hrequest (hpaired hrequest)
    · exact (commitEnds_exec hexec hclear hrequest).banksMoved
  case catchesUp =>
    obtain ⟨hc, -⟩ | h := s.commitEnds_catchUp
    · exact .inl hc
    · exact .inr h

end Sys2Proof.Machine
end

section
/-! SUPPORT. The link's queues, its buffer and its gap timer (R164 to R174, R178, R179): what admission, the receiver, the
transmitter and the execution of a request keep of their bounds. -/

namespace Sys2Proof.Machine

theorem Lkp.reset_sound (cause : ResetCause) (count : Word16) (straps : BitVec 2) : (Lkp.reset cause count straps).sound := by
  simp [Lkp.sound, Lkp.reset, Rx.sound]

section
variable {k : Lkp} (h : k.sound)
include h

/-! ## The transmitter -/

/-- The counters, the mark of a REQUEST reset and the line's idling are no part of what makes the link sound. -/
theorem Lkp.sound.marks (counters : LinkCounters) (marked : Bool) (line : RxLine) :
    ({ k with counters := counters, resetPending := marked, rxLine := line } : Lkp).sound := h

/-- A frame enters the reply queue while there is room for it (R178). -/
theorem Lkp.placeReply_sound (r : Reply) (hroom : k.replies.length < 6) : (k.placeReply r).sound := by
  obtain ⟨hinbound, hreplies, hcache, hkeys, hrx, hgap, hfree⟩ := h
  unfold Lkp.placeReply Lkp.startReply
  split
  case h_1 r' rest htx hqueue =>
    have hqueue : k.replies ++ [r] = r' :: rest := hqueue
    refine ⟨hinbound, ?_, hcache, hkeys, hrx, hgap, by simp⟩
    have := congrArg List.length hqueue
    simp only [List.length_append, List.length_cons, List.length_nil] at this
    show rest.length ≤ 6
    omega
  case h_2 hbusy =>
    refine ⟨hinbound, ?_, hcache, hkeys, hrx, hgap, fun htx => ?_⟩
    · simpa using hroom
    · cases hq : k.replies ++ [r] with
      | nil => simp at hq
      | cons r' rest => exact absurd hq (hbusy _ _ htx)

/-- A free line starts the oldest reply, so none waits on it (R179). -/
theorem Lkp.startReply_sound : (Lkp.startReply { k with tx := .free }).sound := by
  obtain ⟨hinbound, hreplies, hcache, hkeys, hrx, hgap, -⟩ := h
  unfold Lkp.startReply
  split
  case h_1 r' rest _ hqueue =>
    have hqueue : k.replies = r' :: rest := hqueue
    refine ⟨hinbound, ?_, hcache, hkeys, hrx, hgap, by simp⟩
    rw [hqueue] at hreplies
    simp only [List.length_cons] at hreplies
    show rest.length ≤ 6
    omega
  case h_2 hnone =>
    refine ⟨hinbound, hreplies, hcache, hkeys, hrx, hgap, fun _ => ?_⟩
    cases hq : k.replies with
    | nil => rfl
    | cons r' rest => exact absurd hq (hnone _ _ rfl)

/-- A busy line may hold replies back. -/
theorem Lkp.busy_sound {tx : Tx} (hbusy : tx ≠ .free) : ({ k with tx := tx } : Lkp).sound := by
  obtain ⟨hinbound, hreplies, hcache, hkeys, hrx, hgap, -⟩ := h
  exact ⟨hinbound, hreplies, hcache, hkeys, hrx, hgap, fun htx => absurd htx hbusy⟩

theorem Lkp.endTransmission_sound : k.endTransmission.sound := by
  unfold Lkp.endTransmission
  split
  · split
    · exact Lkp.busy_sound h (by simp)
    · exact Lkp.startReply_sound h
  all_goals exact h

/-! ## Admission -/

/-- A request that is neither in the cache nor queued enters the inbound queue (R171). -/
theorem Lkp.enqueue_sound {r : Request} (hroom : k.inbound.length < 4) (hcached : r.key ∉ k.cache.map CacheEntry.key)
    (hqueued : r.key ∉ k.inbound.map Request.key) : ({ k with inbound := k.inbound ++ [r] } : Lkp).sound := by
  obtain ⟨-, hreplies, hcache, hkeys, hrest⟩ := h
  refine ⟨by simpa using hroom, hreplies, hcache, ?_, hrest⟩
  simp only [List.map_append, List.map_cons, List.map_nil, ← List.append_assoc]
  refine List.nodup_append.mpr ⟨hkeys, by simp, fun a ha b hb => ?_⟩
  obtain rfl := List.mem_singleton.mp hb
  rintro rfl
  obtain ha | ha := List.mem_append.mp ha
  · exact hcached ha
  · exact hqueued ha

theorem Lkp.admitFrame_sound (r : Request) : (k.admitFrame r).sound := by
  unfold Lkp.admitFrame
  split
  · split
    case isTrue hroom => exact Lkp.placeReply_sound (h.marks _ _ _) _ hroom
    case isFalse => exact h.marks _ _ _
  case h_2 hcached =>
    split
    case isTrue => exact h.marks _ _ _
    case isFalse hqueued =>
      split
      case isTrue hroom =>
        refine Lkp.enqueue_sound h hroom (fun hmem => ?_) fun hmem => ?_
        · obtain ⟨e, he, hkey⟩ := List.mem_map.mp hmem
          have := List.find?_eq_none.mp hcached e he
          simp_all [CacheEntry.key, Request.key]
        · obtain ⟨q, hq, hkey⟩ := List.mem_map.mp hmem
          refine hqueued (List.any_eq_true.mpr ⟨q, hq, ?_⟩)
          simp_all [Request.key]
      case isFalse =>
        split
        case isTrue hroom => exact Lkp.placeReply_sound (h.marks _ _ _) _ hroom
        case isFalse => exact h.marks _ _ _

/-! ## The receiver -/

theorem Lkp.toHunt_sound : k.toHunt.sound := by
  obtain ⟨hinbound, hreplies, hcache, hkeys, -, -, hfree⟩ := h
  exact ⟨hinbound, hreplies, hcache, hkeys, trivial, by simp [Lkp.toHunt], hfree⟩

/-- Inside a frame the gap timer runs (R168). -/
theorem Lkp.frame_sound {rx : Rx} (hrx : rx.sound) (hframe : rx ≠ .hunt) :
    ({ k with rx := rx, gapTimer := true } : Lkp).sound := by
  obtain ⟨hinbound, hreplies, hcache, hkeys, -, -, hfree⟩ := h
  exact ⟨hinbound, hreplies, hcache, hkeys, hrx, by simp [hframe], hfree⟩

theorem Lkp.checkCrc_sound (len : Byte) (buf : List Byte) (c : Word16) : (k.checkCrc len buf c).sound := by
  have hhunt := Lkp.toHunt_sound h
  unfold Lkp.checkCrc
  split
  · exact Lkp.admitFrame_sound hhunt _
  · exact hhunt.marks _ _ _

theorem Lkp.rxGood_sound (b : Byte) : (k.rxGood b).sound := by
  have ⟨_, _, _, _, hrx, _, _⟩ := h
  unfold Lkp.rxGood
  split
  case h_1 =>
    split
    · exact Lkp.frame_sound h trivial (by simp)
    · exact h.marks _ _ _
  case h_2 =>
    split
    case isTrue hlen => exact Lkp.frame_sound h ⟨hlen, Nat.succ_pos _⟩ (by simp)
    case isFalse => exact (Lkp.toHunt_sound h).marks _ _ _
  case h_3 len buf hbody =>
    rw [hbody] at hrx
    obtain ⟨hlen, hbuf⟩ := hrx
    split
    case isTrue hfull => exact Lkp.frame_sound h ⟨hlen, by simpa using hfull⟩ (by simp)
    case isFalse hmore =>
      refine Lkp.frame_sound h ⟨hlen, ?_⟩ (by simp)
      simp only [List.length_append, List.length_cons, List.length_nil]
      omega
  case h_4 len buf hcheck =>
    rw [hcheck] at hrx
    exact Lkp.frame_sound h hrx (by simp)
  case h_5 => exact Lkp.checkCrc_sound h _ _ _

theorem Lkp.rxError_sound : k.rxError.sound := by
  unfold Lkp.rxError
  split
  · exact h.marks _ _ _
  · exact (Lkp.toHunt_sound h).marks _ _ _

theorem Lkp.receive_sound (e : ByteEvent) : (k.receive e).sound := by
  unfold Lkp.receive
  split
  · cases e with
    | good b => exact Lkp.rxGood_sound h b
    | framing => exact Lkp.rxError_sound h
    | lineBreak => exact (Lkp.rxError_sound h).marks _ _ _
  · exact h

theorem Lkp.gapExpired_sound : k.gapExpired.sound := by
  unfold Lkp.gapExpired
  split
  · exact h
  · exact (Lkp.toHunt_sound h).marks _ _ _

/-! ## The execution of a request -/

/-- The executed request moves from the inbound queue into the cache, which drops its oldest entry for it (R174, R175). -/
theorem Lkp.cached_sound {r : Request} {rest : List Request} (hin : k.inbound = r :: rest) (frame : List Byte) :
    ({ k with inbound := rest, cache := cacheAdd { seq := r.seq, crc := r.crc, frame := frame } k.cache } : Lkp).sound := by
  obtain ⟨hinbound, hreplies, hcache, hkeys, hrest⟩ := h
  have hroom : (if k.cache.length < 4 then k.cache else k.cache.drop 1).length < 4 := by
    split
    · omega
    · rw [List.length_drop]
      omega
  have hsub : (if k.cache.length < 4 then k.cache else k.cache.drop 1).Sublist k.cache := by
    split
    · exact List.Sublist.refl _
    · exact List.drop_sublist 1 _
  rw [hin] at hinbound hkeys
  refine ⟨Nat.le_of_succ_le hinbound, hreplies, ?_, ?_, hrest⟩
  · simpa [cacheAdd] using hroom
  · have hshorter := ((hsub.map CacheEntry.key).append (List.Sublist.refl ((r :: rest).map Request.key))).nodup hkeys
    simpa [cacheAdd, CacheEntry.key, Request.key] using hshorter

end

/-- The reply to an executed request enters a reply queue that has room for it (R175, R178). -/
theorem Lkp.replied_sound {k u : Lkp} (h : k.sound) {r : Request} {rest : List Request} (hin : k.inbound = r :: rest)
    (hexecutes : k.executes = true) {counters : LinkCounters} {marked : Bool}
    (hu : u = { k with inbound := rest, counters := counters, resetPending := marked }) (frame : List Byte) (f : Reply) :
    (Lkp.placeReply f { u with cache := cacheAdd { seq := r.seq, crc := r.crc, frame := frame } u.cache }).sound := by
  subst hu
  refine Lkp.placeReply_sound ((Lkp.cached_sound h hin frame).marks counters marked k.rxLine) f ?_
  have : k.replies.length ≤ 4 := by
    simp only [Lkp.executes, Bool.and_eq_true, decide_eq_true_eq] at hexecutes
    exact hexecutes.1
  show k.replies.length < 6
  omega

theorem State.execute_lkp_sound {accepts : Request → Bool} {act : Request → State → State × Answer} (hacts : Acts act)
    {s : State} (h : s.lkp.sound) : (s.execute accepts act).lkp.sound := by
  obtain e | ⟨r, rest, hin, hexecutes, e⟩ := s.execute_cases accepts act <;> rw [e]
  · exact h
  · obtain ⟨counters, marked, hlink⟩ := (hacts r (s.pairSpeed.takeRequest rest)).link
    rw [State.settle_lkp]
    rw [State.takeRequest_lkp, State.pairSpeed_lkp] at hlink
    exact Lkp.replied_sound h hin hexecutes hlink _ _

/-! ## Reports on a free line -/

theorem State.handOverKind_lkp_sound {s : State} (k : ReportKind) (h : s.lkp.sound) : (s.handOverKind k).lkp.sound :=
  Lkp.busy_sound h (by simp)

theorem State.grantLine_lkp_sound {s : State} (h : s.lkp.sound) : s.grantLine.lkp.sound := by
  unfold State.grantLine
  split
  · split
    · exact State.handOverKind_lkp_sound _ (by simpa using h)
    · exact h
  · exact h

theorem State.endStartupIdle_lkp_sound {s : State} (h : s.lkp.sound) : s.endStartupIdle.lkp.sound := by
  unfold State.endStartupIdle
  dsimp only
  split
  · exact Lkp.busy_sound h (by simp)
  · exact State.grantLine_lkp_sound (Lkp.startReply_sound h)

/-! ## Every step -/

theorem exec_lkp_sound {c : Instr} {s t : State} (hexec : exec c s = .next t) (h : s.lkp.sound) : t.lkp.sound := by
  by_cases hrequest : (requestKind c).isSome = true ∨ c = .badKind
  · obtain ⟨accepts, act, hacts, hruns⟩ := exec_runsAs hrequest
    have lived : ∀ u : State, u.lkp = s.lkp → live (State.execute accepts act) u = .next t → t.lkp.sound := by
      intro u hu e
      obtain rfl := Host.Outcome.next.inj e
      rw [← hu] at h
      split
      · exact h
      · exact State.execute_lkp_sound hacts h
    obtain e | ⟨-, -, -, e⟩ := hruns s <;> rw [e] at hexec
    · exact lived s rfl hexec
    · exact lived s.catchUp s.catchUp_lkp hexec
  have lived : ∀ {f : State → State}, live f s = .next t → (f s).lkp.sound → t.lkp.sound := by
    intro f e hf
    obtain rfl := Host.Outcome.next.inj e
    split
    · exact h
    · exact hf
  have kept : ∀ {f : State → State}, live f s = .next t → (f s).lkp = s.lkp → t.lkp.sound :=
    fun e hf => lived e (hf ▸ h)
  cases c
  case powerOnReset b => cases hexec; exact Lkp.reset_sound ..
  case pinReset b => cases hexec; exact Lkp.reset_sound ..
  case nrstLow => cases hexec; exact Lkp.reset_sound ..
  case requestReset b =>
    refine lived hexec ?_
    split
    · exact Lkp.reset_sound ..
    · exact h
  case startupIdleEnd =>
    refine lived hexec ?_
    split
    · exact State.endStartupIdle_lkp_sound h
    · exact h
  case transmitEnd =>
    simp only [exec, execTransmitEnd] at hexec
    refine lived hexec ?_
    split
    · exact State.grantLine_lkp_sound (Lkp.endTransmission_sound h)
    all_goals exact h
  case reportHandOver => exact lived hexec (State.grantLine_lkp_sound h)
  case gapExpiry =>
    simp only [exec, execGapExpiry] at hexec
    exact lived hexec (Lkp.gapExpired_sound h)
  case rxdIdle =>
    simp only [exec, execRxdIdle] at hexec
    exact lived hexec (h.marks s.lkp.counters s.lkp.resetPending .ready)
  case noise e => exact lived hexec (Lkp.receive_sound h _)
  case lengthError b => exact lived hexec (Lkp.receive_sound h _)
  case byteError e => exact lived hexec (Lkp.receive_sound h _)
  case frame b => exact lived hexec (Lkp.receive_sound h _)
  case goodByte b => exact lived hexec (Lkp.receive_sound h _)
  case step turn =>
    simp only [exec, execStep] at hexec
    exact kept hexec (by split <;> simp)
  case settlingEnd => exact kept hexec (by split <;> simp)
  case latchSettlingEnd => exact kept hexec (by split <;> simp)
  case quadError => exact kept hexec (by split <;> simp)
  case indexEvent => exact kept hexec (by split <;> simp)
  case latchEdge => exact kept hexec (by split <;> simp)
  case stallExpiry => exact kept hexec (by split <;> simp)
  case speedDecay => exact kept hexec (by split <;> simp)
  case holdoffEnd => exact kept hexec (by split <;> simp)
  case positionTimerExpiry => exact kept hexec (by split <;> simp)
  case sample => exact kept hexec (by simp)
  all_goals simp [requestKind] at hrequest

/-- Settles O59. The receiver, admission, the transmitter and the execution of a request each keep the link sound; the
commands of the field leave it alone. -/
theorem linkQueuesStayBounded : Obligations.LinkQueuesStayBounded := by
  intro s t hstep h
  unfold step at hstep
  split at hstep
  · cases hstep
    exact h
  · exact exec_lkp_sound hstep h

end Sys2Proof.Machine
end

section
/-! SUPPORT. The tickets (R105, R153) as a ledger of plain numbers: what the end of an operation, the acceptance of one, the
settling of an order and the report of a completion do to it. -/

namespace Sys2Proof.Machine

/-! ## The counter of the tickets -/

theorem nextTicket_ne_zero (t : Byte) : nextTicket t ≠ 0 := by
  unfold nextTicket
  split
  · decide
  · bv_omega

theorem nextTicket_toNat {t : Byte} (h : t ≠ 0) : (nextTicket t).toNat = t.toNat % 255 + 1 := by
  unfold nextTicket
  split
  case isTrue h255 =>
    subst h255
    rfl
  case isFalse h255 => bv_omega

theorem ticketAfter_succ (n : Nat) (t : Byte) : ticketAfter (n + 1) t = nextTicket (ticketAfter n t) := by
  induction n generalizing t with
  | zero => rfl
  | succ n ih => exact ih (nextTicket t)

theorem ticketAfter_toNat {t : Byte} (h : t ≠ 0) (n : Nat) : (ticketAfter n t).toNat = (t.toNat - 1 + n) % 255 + 1 := by
  have hpos : 0 < t.toNat := by bv_omega
  induction n generalizing t with
  | zero =>
    have := t.isLt
    show t.toNat = _
    omega
  | succ n ih =>
    have hnext := nextTicket_ne_zero t
    rw [ticketAfter, ih hnext (by bv_omega), nextTicket_toNat h]
    omega

/-- The counter comes round after 255 tickets, so a ticket given a few tickets ago is another one (R105). -/
theorem ticketAfter_ne {t : Byte} (h : t ≠ 0) {n : Nat} (hpos : 1 ≤ n) (hlt : n < 255) : ticketAfter n t ≠ t := by
  intro e
  have hlow := ticketAfter_toNat h n
  have := t.isLt
  have hnz : 0 < t.toNat := by bv_omega
  rw [e] at hlow
  omega

/-! ## The ledger -/

/-- The tickets of the completions waiting, oldest first, how many of them are of this sample, those of the operations in
flight, and the next one. -/
structure Ledger where
  waiting : List Byte
  recent : Nat
  flight : List Byte
  next : Byte

/-- The tickets in the order in which the counter gave them: each is followed by the next. -/
def inTurn (ts : List Byte) : Prop := ts.IsChain fun a b => b = nextTicket a

/-- The tickets of the completions whose order is not settled yet. -/
def Ledger.unsettled (l : Ledger) : List Byte := l.waiting.drop (l.waiting.length - l.recent)

/-- What `State.ticketsSound` says of the tickets. -/
def Ledger.sound (l : Ledger) : Prop :=
  (l.waiting ++ l.flight).Nodup ∧ (∀ t ∈ l.waiting ++ l.flight, t ≠ 0) ∧ l.next ≠ 0
    ∧ inTurn (l.unsettled ++ l.flight ++ [l.next])
    ∧ ∀ i t, l.waiting[i]? = some t → ∃ k, 1 ≤ k ∧ k ≤ l.waiting.length - i + l.flight.length + 3
      ∧ ticketAfter k t = l.next

theorem inTurn.right {ts us : List Byte} (h : inTurn (ts ++ us)) : inTurn us := List.IsChain.right_of_append h

/-- Along tickets in turn the last is reached from each before it. -/
theorem inTurn_reaches {ts : List Byte} {last : Byte} (h : inTurn (ts ++ [last])) :
    ∀ t ∈ ts, ∃ k, 1 ≤ k ∧ k ≤ ts.length ∧ ticketAfter k t = last := by
  induction ts with
  | nil => simp
  | cons x xs ih =>
    intro t ht
    have htail : inTurn (xs ++ [last]) := List.IsChain.tail h
    obtain rfl | ht := List.mem_cons.mp ht
    · cases xs with
      | nil =>
        refine ⟨1, le_refl _, le_refl _, ?_⟩
        exact (List.isChain_cons_cons.mp h).1.symm
      | cons y ys =>
        obtain ⟨k, hpos, hle, hk⟩ := ih htail y List.mem_cons_self
        have hy : y = nextTicket t := (List.isChain_cons_cons.mp h).1
        exact ⟨k + 1, Nat.succ_pos k, Nat.succ_le_succ hle, by rw [ticketAfter, ← hy, hk]⟩
    · obtain ⟨k, hpos, hle, hk⟩ := ih htail t ht
      exact ⟨k, hpos, Nat.le_succ_of_le hle, hk⟩

/-- The operation in flight turns into the newest completion (R152, R153). -/
theorem Ledger.complete_sound {l : Ledger} (h : l.sound) {t : Byte} (hflight : l.flight = [t]) :
    Ledger.sound { waiting := l.waiting ++ [t], recent := l.recent + 1, flight := [], next := l.next } := by
  obtain ⟨hnodup, hzero, hnext, hturn, hreach⟩ := h
  rw [hflight] at hnodup hzero hturn hreach
  have hunsettled : (l.waiting ++ [t]).drop ((l.waiting ++ [t]).length - (l.recent + 1)) = l.unsettled ++ [t] := by
    rw [List.length_append, List.length_singleton, Nat.add_sub_add_right,
      List.drop_append_of_le_length (Nat.sub_le _ _), Ledger.unsettled]
  refine ⟨by simpa using hnodup, by simpa using hzero, hnext, ?_, fun i u hu => ?_⟩
  · rw [Ledger.unsettled, hunsettled, List.append_nil]
    exact hturn
  · dsimp only at hu ⊢
    rw [List.getElem?_append] at hu
    split at hu
    case isTrue hi =>
      obtain ⟨k, hpos, hle, hk⟩ := hreach i u hu
      refine ⟨k, hpos, ?_, hk⟩
      simp only [List.length_append, List.length_singleton, List.length_nil] at hle ⊢
      omega
    case isFalse hi =>
      obtain ⟨hi', rfl⟩ : i - l.waiting.length = 0 ∧ u = t := by
        obtain ⟨hlt, hu⟩ := List.getElem?_eq_some_iff.mp hu
        rw [List.length_singleton] at hlt
        exact ⟨by omega, by simpa using hu.symm⟩
      obtain ⟨k, hpos, hle, hk⟩ := inTurn_reaches (ts := [u])
        (inTurn.right (by simpa only [List.append_assoc] using hturn)) u (by simp)
      refine ⟨k, hpos, ?_, hk⟩
      simp only [List.length_append, List.length_singleton, List.length_nil] at hle ⊢
      omega

/-- An operation is accepted with the next ticket, while there is room for it (R105, R152). -/
theorem Ledger.accept_sound {l : Ledger} (h : l.sound) (hflight : l.flight = []) (hroom : l.waiting.length ≤ 3) :
    Ledger.sound { l with flight := [l.next], next := nextTicket l.next } := by
  obtain ⟨hnodup, hzero, hnext, hturn, hreach⟩ := h
  simp only [hflight, List.append_nil, List.length_nil] at hnodup hzero hturn hreach
  have hnew : l.next ∉ l.waiting := by
    intro hmem
    obtain ⟨i, hi⟩ := List.getElem?_of_mem hmem
    obtain ⟨k, hpos, hle, hk⟩ := hreach i _ hi
    exact ticketAfter_ne hnext hpos (by omega) hk
  refine ⟨?_, ?_, nextTicket_ne_zero _, ?_, fun i u hu => ?_⟩
  · exact List.nodup_append.mpr ⟨hnodup, by simp, by rintro a ha b hb rfl; exact hnew (List.mem_singleton.mp hb ▸ ha)⟩
  · intro t ht
    obtain ht | ht := List.mem_append.mp ht
    · exact hzero t ht
    · exact List.mem_singleton.mp ht ▸ hnext
  · refine List.isChain_append.mpr ⟨hturn, by simp, ?_⟩
    simp
  · obtain ⟨k, hpos, hle, hk⟩ := hreach i u hu
    refine ⟨k + 1, Nat.succ_pos k, ?_, by rw [ticketAfter_succ, hk]⟩
    simp only [List.length_singleton]
    omega

/-- The order of the completions of the sample is settled, whatever it is (R153). -/
theorem Ledger.order_sound {l : Ledger} (h : l.sound) (hmax : l.waiting.length ≤ 4) {last : List Byte}
    (hperm : last.Perm l.unsettled) :
    Ledger.sound { l with waiting := l.waiting.take (l.waiting.length - l.recent) ++ last, recent := 0 } := by
  obtain ⟨hnodup, hzero, hnext, hturn, hreach⟩ := h
  have hall : (l.waiting.take (l.waiting.length - l.recent) ++ last).Perm l.waiting := by
    have := hperm.append_left (l.waiting.take (l.waiting.length - l.recent))
    rwa [Ledger.unsettled, List.take_append_drop] at this
  have hlen : (l.waiting.take (l.waiting.length - l.recent) ++ last).length = l.waiting.length := hall.length_eq
  have hinUse := hall.append_right l.flight
  have hsuffix : inTurn (l.flight ++ [l.next]) :=
    inTurn.right (by simpa only [List.append_assoc] using hturn)
  refine ⟨hinUse.nodup_iff.mpr hnodup, fun t ht => hzero t (hinUse.mem_iff.mp ht), hnext, ?_, fun i u hu => ?_⟩
  · simp only [Ledger.unsettled, Nat.sub_zero, List.drop_length, List.nil_append]
    exact hsuffix
  · dsimp only at hu ⊢
    rw [hlen]
    have hi : i < l.waiting.length := hlen ▸ (List.getElem?_eq_some_iff.mp hu).1
    rw [List.getElem?_append] at hu
    split at hu
    · rw [List.getElem?_take] at hu
      split at hu
      · exact hreach i u hu
      · cases hu
    · have hmem : u ∈ l.unsettled ++ l.flight :=
        List.mem_append_left _ (hperm.mem_iff.mp (List.mem_of_getElem? hu))
      obtain ⟨k, hpos, hle, hk⟩ := inTurn_reaches hturn u hmem
      refine ⟨k, hpos, ?_, hk⟩
      have : l.unsettled.length ≤ 4 := by
        rw [Ledger.unsettled, List.length_drop]
        omega
      rw [List.length_append] at hle
      omega

/-- The oldest completion is reported (R154). -/
theorem Ledger.tail_sound {l : Ledger} (h : l.sound) : Ledger.sound { l with waiting := l.waiting.tail } := by
  obtain ⟨hnodup, hzero, hnext, hturn, hreach⟩ := h
  have hsub := (List.tail_sublist l.waiting).append (List.Sublist.refl l.flight)
  refine ⟨hsub.nodup hnodup, fun t ht => hzero t (hsub.subset ht), hnext, ?_, fun i u hu => ?_⟩
  · have hsuffix : l.waiting.tail.drop (l.waiting.tail.length - l.recent) <:+ l.unsettled := by
      rw [Ledger.unsettled, ← List.drop_one, List.drop_drop, List.length_drop]
      exact List.drop_suffix_drop_left _ (by omega)
    obtain ⟨front, hfront⟩ := hsuffix
    rw [← hfront] at hturn
    change inTurn (l.waiting.tail.drop (l.waiting.tail.length - l.recent) ++ l.flight ++ [l.next])
    exact inTurn.right (ts := front) (by simpa only [List.append_assoc] using hturn)
  · dsimp only at hu ⊢
    rw [List.getElem?_tail] at hu
    obtain ⟨k, hpos, hle, hk⟩ := hreach (i + 1) u hu
    refine ⟨k, hpos, ?_, hk⟩
    rw [List.length_tail]
    omega

end Sys2Proof.Machine
end

section
/-! SUPPORT. The long operations and their tickets in the machine (R105, R114, R152, R153): the ledger of a state, what each
act does to it, and that the count and the tickets stay sound. -/

namespace Sys2Proof.Machine

/-! ## A ledger whose operations are counted -/

/-- `n` operations are in flight, as many as the ledger holds tickets of, and the list has room for their completions; and,
where the tickets were sound (`T`), they are. -/
def Ledger.counted (T : Prop) (n : Nat) (l : Ledger) : Prop :=
  n = l.flight.length ∧ n + l.waiting.length ≤ 4 ∧ (T → l.sound)

variable {T : Prop} {n : Nat} {l : Ledger}

theorem Ledger.counted.complete (h : l.counted T n) {t : Byte} (hflight : l.flight = [t]) :
    Ledger.counted T (n - 1) { waiting := l.waiting ++ [t], recent := l.recent + 1, flight := [], next := l.next } := by
  obtain ⟨hn, hroom, hsound⟩ := h
  rw [hflight, List.length_singleton] at hn
  refine ⟨by simp [hn], ?_, fun hT => Ledger.complete_sound (hsound hT) hflight⟩
  simp only [List.length_append, List.length_singleton]
  omega

theorem Ledger.counted.accept (h : l.counted T n) (hflight : l.flight = []) (hroom : n + l.waiting.length ≤ 3) :
    Ledger.counted T (n + 1) { l with flight := [l.next], next := nextTicket l.next } := by
  obtain ⟨hn, -, hsound⟩ := h
  rw [hflight, List.length_nil] at hn
  refine ⟨by simp [hn], ?_, fun hT => Ledger.accept_sound (hsound hT) hflight (by omega)⟩
  dsimp only
  omega

theorem Ledger.counted.order (h : l.counted T n) {last : List Byte} (hperm : last.Perm l.unsettled) :
    Ledger.counted T n { l with waiting := l.waiting.take (l.waiting.length - l.recent) ++ last, recent := 0 } := by
  obtain ⟨hn, hroom, hsound⟩ := h
  have hlen := hperm.length_eq
  rw [Ledger.unsettled, List.length_drop] at hlen
  refine ⟨hn, ?_, fun hT => Ledger.order_sound (hsound hT) (by omega) hperm⟩
  simp only [List.length_append, List.length_take]
  omega

theorem Ledger.counted.tail (h : l.counted T n) : Ledger.counted T n { l with waiting := l.waiting.tail } := by
  obtain ⟨hn, hroom, hsound⟩ := h
  refine ⟨hn, ?_, fun hT => Ledger.tail_sound (hsound hT)⟩
  simp only [List.length_tail]
  omega

/-! ## The ledger of a state -/

/-- The tickets of the machine. -/
def State.ledger (s : State) : Ledger :=
  { waiting := s.rsc.waiting.map (·.ticket), recent := s.rsc.recent, flight := s.flightTickets, next := s.bsc.nextTicket }

/-- The operations of the machine are counted. -/
def State.accounts (T : Prop) (s : State) : Prop := s.ledger.counted T s.rsc.inFlight

theorem State.ledger_sound_iff (s : State) : s.ledger.sound ↔ s.ticketsSound := by
  have hunsettled : s.ledger.unsettled = s.rsc.unsettled.map (·.ticket) := by
    simp [Ledger.unsettled, Rsc.unsettled, State.ledger, List.map_drop]
  have hreach : (∀ i t, s.ledger.waiting[i]? = some t → ∃ k, 1 ≤ k
        ∧ k ≤ s.ledger.waiting.length - i + s.ledger.flight.length + 3 ∧ ticketAfter k t = s.ledger.next)
      ↔ ∀ (i : Nat) (c : Completion), s.rsc.waiting[i]? = some c → ∃ k, 1 ≤ k
        ∧ k ≤ s.rsc.waiting.length - i + s.flightTickets.length + 3 ∧ ticketAfter k c.ticket = s.bsc.nextTicket := by
    simp only [State.ledger, List.getElem?_map, List.length_map, Option.map_eq_some_iff]
    exact ⟨fun h i c hc => h i _ ⟨c, hc, rfl⟩, fun h i t ⟨c, hc, e⟩ => e ▸ h i c hc⟩
  unfold Ledger.sound
  rw [hunsettled, hreach]
  rfl

theorem State.flightTickets_length (s : State) : s.flightTickets.length = s.seeksInFlight + s.commitsInFlight := by
  unfold State.flightTickets State.seeksInFlight State.commitsInFlight
  rw [List.length_append]
  congr 1
  · cases s.rft.sync <;> rfl
  · cases s.bsc.commit <;> rfl

/-- The statement's counting is that of the ledger, with nothing asked of the tickets. -/
theorem State.operationsSound_iff (s : State) : s.operationsSound ↔ s.accounts False ∧ s.commitLocked := by
  unfold State.operationsSound State.accounts Ledger.counted
  rw [← s.flightTickets_length, show s.ledger.waiting.length = s.rsc.waiting.length from List.length_map _]
  exact ⟨fun ⟨hn, hroom, hl⟩ => ⟨⟨hn, hroom, False.elim⟩, hl⟩, fun ⟨⟨hn, hroom, _⟩, hl⟩ => ⟨hn, hroom, hl⟩⟩

theorem State.tickets_iff (s : State) : s.operationsSound ∧ s.ticketsSound ↔ s.accounts True ∧ s.commitLocked := by
  rw [s.operationsSound_iff, ← s.ledger_sound_iff]
  exact ⟨fun ⟨⟨⟨hn, hroom, _⟩, hl⟩, ht⟩ => ⟨⟨hn, hroom, fun _ => ht⟩, hl⟩,
    fun ⟨⟨hn, hroom, ht⟩, hl⟩ => ⟨⟨⟨hn, hroom, False.elim⟩, hl⟩, ht trivial⟩⟩

/-! ## The operation in flight -/

theorem State.flightTickets_of_seeking {s : State} {r : SeekRecord} (hr : s.rft.sync = .seeking r) (hl : s.commitLocked) :
    s.flightTickets = [r.ticket] := by
  simp [State.flightTickets, hr, hl.none (by simp [hr, Sync.state])]

theorem State.flightTickets_of_commit {s : State} {c : Commit} (hc : s.bsc.commit = some c)
    (hs : s.rft.sync.state ≠ .seeking) : s.flightTickets = [c.ticket] := by
  cases h : s.rft.sync <;> simp_all [State.flightTickets, Sync.state]

theorem State.flightTickets_of_none {s : State} (hc : s.bsc.commit = none) (hs : s.rft.sync.state ≠ .seeking) :
    s.flightTickets = [] := by
  cases h : s.rft.sync <;> simp_all [State.flightTickets, Sync.state]

theorem State.commitLocked.held {s : State} (h : s.commitLocked) : s.commitHeld := fun hc => .inl (h hc)

theorem State.commitHeld.not_seeking {s : State} (h : s.commitHeld) {c : Commit} (hc : s.bsc.commit = some c) :
    s.rft.sync.state ≠ .seeking := by
  obtain e | e := h (by simp [hc]) <;> simp [e]

/-! ## What an act does to the ledger -/

/-- An act that leaves the completions and the operation in flight alone. -/
theorem State.accounts.same {s t : State} (h : s.accounts T) (hflight : t.flightTickets = s.flightTickets)
    (hin : t.rsc.inFlight = s.rsc.inFlight) (hwait : t.rsc.waiting = s.rsc.waiting) (hrecent : t.rsc.recent = s.rsc.recent)
    (hnext : t.bsc.nextTicket = s.bsc.nextTicket) : t.accounts T := by
  unfold State.accounts State.ledger
  rw [hflight, hin, hwait, hrecent, hnext]
  exact h

/-- An act that ends the operation in flight with the completion `c`. -/
theorem State.accounts.complete {s t : State} (h : s.accounts T) {c : Completion} (hfrom : s.flightTickets = [c.ticket])
    (hto : t.flightTickets = []) (hin : t.rsc.inFlight = s.rsc.inFlight - 1) (hwait : t.rsc.waiting = s.rsc.waiting ++ [c])
    (hrecent : t.rsc.recent = s.rsc.recent + 1) (hnext : t.bsc.nextTicket = s.bsc.nextTicket) : t.accounts T := by
  unfold State.accounts State.ledger
  rw [hto, hin, hwait, hrecent, hnext, List.map_append]
  exact Ledger.counted.complete h hfrom

/-- The end of the pending commit with the completion `c`, which leaves the RFT alone. -/
theorem State.accounts.endCommit {s t : State} (h : s.accounts T) {p : Commit} (hp : s.bsc.commit = some p)
    (hs : s.rft.sync.state ≠ .seeking) {c : Completion} (hc : c.ticket = p.ticket) (hsync : t.rft.sync = s.rft.sync)
    (hnone : t.bsc.commit = none) (hrsc : t.rsc = s.rsc.complete c) (hnext : t.bsc.nextTicket = s.bsc.nextTicket) :
    t.accounts T :=
  h.complete (c := c) (hc ▸ s.flightTickets_of_commit hp hs) (t.flightTickets_of_none hnone (hsync ▸ hs))
    (by rw [hrsc]; rfl) (by rw [hrsc]; rfl) (by rw [hrsc]; rfl) hnext

theorem State.bscLeft_accounts {s : State} (h : s.accounts T)
    (hs : ∀ c, s.bsc.commit = some c → s.rft.sync.state ≠ .seeking) : s.bscLeft.accounts T := by
  by_cases hl : s.rft.sync.state = .locked
  case pos =>
    refine h.same ?_ ?_ ?_ ?_ rfl
    all_goals simp [State.bscLeft, State.flightTickets, hl]
  case neg =>
    cases hc : s.bsc.commit with
    | none => refine h.same ?_ ?_ ?_ ?_ rfl <;> simp [State.bscLeft, State.flightTickets, hl, hc]
    | some c =>
      have hrsc : s.bscLeft.rsc = s.rsc.complete
          { ticket := c.ticket, op := .commit, outcome := .abandoned, time := s.tsu.timebase, pos := none
            generation := none } := by
        simp [State.bscLeft, hl, hc]
      exact h.endCommit hc (hs c hc) rfl rfl (by simp [State.bscLeft, hl]) hrsc rfl

theorem State.failSeek_accounts {r : SeekRecord} (o : EndOutcome) (c : SyncCause) {s : State} (hr : s.rft.sync = .seeking r)
    (h : s.accounts T) (hl : s.commitLocked) : (s.failSeek r o c).accounts T := by
  have hnone : s.bsc.commit = none := hl.none (by simp [hr, Sync.state])
  refine h.complete (s.flightTickets_of_seeking hr hl) (State.flightTickets_of_none ?_ ?_) rfl rfl rfl rfl
  · simpa
  · simp [State.failSeek, State.changeSync, Sync.state]

theorem State.lock_accounts {r : SeekRecord} {s : State} (hr : s.rft.sync = .seeking r) (h : s.accounts T)
    (hl : s.commitLocked) : (s.lock r).accounts T := by
  have hnone : s.bsc.commit = none := hl.none (by simp [hr, Sync.state])
  refine h.complete (s.flightTickets_of_seeking hr hl) (State.flightTickets_of_none ?_ ?_) rfl rfl rfl rfl
  · simpa
  · simp [State.lock, Sync.state]

/-- A SEEK is accepted: a commit that is pending ends first, and its completion has a place, for it was counted (R25,
R114, R152). -/
theorem State.startSeek_accounts (src : Source) (p : List Byte) {s : State} (hs : s.rft.sync.state ≠ .seeking)
    (hroom : s.rsc.hasRoom = true) (h : s.accounts T) : (s.startSeek src p).accounts T := by
  have hroom : s.rsc.inFlight + s.rsc.waiting.length ≤ 3 := of_decide_eq_true hroom
  have hnone : (s.startSeek src p).bsc.commit = none := by
    simp [State.startSeek, State.bscLeft, State.changeSync, Sync.state]
  have hflight : (s.startSeek src p).flightTickets = [s.bsc.nextTicket] :=
    State.flightTickets_of_seeking (r := s.seekRecord src p) rfl (fun hc => by simp [hnone] at hc)
  unfold State.accounts
  cases hc : s.bsc.commit with
  | none =>
    have haccept := Ledger.counted.accept h (State.flightTickets_of_none hc hs) (by simpa [State.ledger] using hroom)
    have hrsc : (s.startSeek src p).rsc = s.rsc.accept.syncEvent .seeking .seek s.tsu.timebase := by
      simp [State.startSeek, State.bscLeft, State.changeSync, Sync.state, hc]
    rw [State.ledger, hflight, hrsc]
    exact haccept
  | some c =>
    have hfrom := s.flightTickets_of_commit hc hs
    have hone : s.rsc.inFlight = 1 := h.1.trans (by simp [State.ledger, hfrom])
    have haccept := Ledger.counted.accept (Ledger.counted.complete h hfrom) rfl (by
      simp only [State.ledger, List.length_append, List.length_map, List.length_singleton]
      omega)
    have hrsc : (s.startSeek src p).rsc = (s.rsc.accept.syncEvent .seeking .seek s.tsu.timebase).complete
        { ticket := c.ticket, op := .commit, outcome := .abandoned, time := s.tsu.timebase, pos := none
          generation := none } := by
      simp [State.startSeek, State.bscLeft, State.changeSync, Sync.state, hc]
    rw [State.ledger, hflight, hrsc]
    simp only [Rsc.complete, Rsc.syncEvent, Rsc.accept, List.map_append, Nat.add_sub_cancel]
    rw [hone] at haccept ⊢
    exact haccept

theorem State.startCommit_accounts (c : CommitPolicy) {s : State} (hlocked : s.rft.sync.state = .locked)
    (hnone : s.bsc.commit = none) (hroom : s.rsc.hasRoom = true) (h : s.accounts T) : (s.startCommit c).accounts T := by
  have hroom : s.rsc.inFlight + s.rsc.waiting.length ≤ 3 := of_decide_eq_true hroom
  have haccept := Ledger.counted.accept h (State.flightTickets_of_none hnone (by simp [hlocked]))
    (by simpa [State.ledger] using hroom)
  have hflight : (s.startCommit c).flightTickets = [s.bsc.nextTicket] :=
    State.flightTickets_of_commit (c := { ticket := s.bsc.nextTicket, policy := c }) rfl (by
      show s.rft.sync.state ≠ _
      simp [hlocked])
  unfold State.accounts
  rw [State.ledger, hflight]
  exact haccept

theorem State.ordered_accounts (code : Nat) {s t : State} (h : s.accounts T) (hflight : t.flightTickets = s.flightTickets)
    (hin : t.rsc.inFlight = s.rsc.inFlight) (hwait : t.rsc.waiting = (s.rsc.ordered code).waiting)
    (hrecent : t.rsc.recent = 0) (hnext : t.bsc.nextTicket = s.bsc.nextTicket) : t.accounts T := by
  have horder := Ledger.counted.order h
    (last := (shuffle code (s.rsc.waiting.drop (s.rsc.waiting.length - s.rsc.recent))).map (·.ticket)) (by
      rw [Ledger.unsettled, State.ledger, List.length_map, ← List.map_drop]
      exact (shuffle_perm _ _).map _)
  unfold State.accounts
  rw [State.ledger, hflight, hin, hwait, hrecent, hnext]
  simp only [State.ledger, List.length_map, ← List.map_take, ← List.map_append] at horder
  exact horder

theorem State.handOverKind_accounts (k : ReportKind) {s : State} (h : s.accounts T) : (s.handOverKind k).accounts T := by
  by_cases hk : k = .done
  · have htail := Ledger.counted.tail h
    subst hk
    unfold State.accounts
    rw [State.ledger]
    simp only [State.handOverKind, Rsc.handOver, if_true, List.map_tail]
    exact htail
  · exact h.same rfl rfl (by simp [State.handOverKind, Rsc.handOver, hk]) rfl rfl

theorem State.reset_accounts : State.reset.accounts T := by
  refine ⟨rfl, Nat.zero_le _, fun _ => ⟨List.nodup_nil, ?_, by decide, ?_, ?_⟩⟩
  · intro t ht
    cases ht
  · exact List.isChain_singleton _
  · intro i t ht
    simp [State.ledger, State.reset, Rsc.reset] at ht

/-! ## The operations stay counted -/

theorem State.accounts_eventsKept : EventsKept (fun s => s.accounts T ∧ s.commitLocked) (fun s => s.accounts T ∧ s.commitHeld) := by
  have hlocked := State.commitLocked_eventsKept
  constructor
  case mid => exact fun s h => ⟨h.1, h.2.held⟩
  case swapped =>
    exact fun c p s hc h => ⟨h.1.endCommit hc (h.2.held.not_seeking hc) rfl rfl rfl rfl rfl, hlocked.swapped c p s hc h.2⟩
  case swappedMid =>
    exact fun c p s hc h => ⟨h.1.endCommit hc (h.2.not_seeking hc) rfl rfl rfl rfl rfl, hlocked.swappedMid c p s hc h.2⟩
  case left => exact fun s h => ⟨State.bscLeft_accounts h.1 fun c => h.2.not_seeking, hlocked.left s h.2⟩
  case failSeek => exact fun r o c s hr h => ⟨State.failSeek_accounts o c hr h.1 h.2, hlocked.failSeek r o c s hr h.2⟩
  case lock => exact fun r s hr h => ⟨State.lock_accounts hr h.1 h.2, hlocked.lock r s hr h.2⟩
  case lose =>
    refine fun r c s hr h => ⟨h.1.same ?_ rfl rfl rfl rfl, hlocked.lose r c s hr h.2⟩
    simp [State.flightTickets, State.changeSync, hr]
  case load =>
    refine fun r s hr h => ⟨h.1.same ?_ rfl rfl rfl rfl, hlocked.load r s hr h.2⟩
    simp [State.flightTickets, hr]
  case mark =>
    refine fun r r' s hr hf hc h => ⟨h.1.same ?_ rfl rfl rfl rfl, hlocked.mark r r' s hr hf hc h.2⟩
    simp [State.flightTickets, hr]
  case indexError =>
    refine fun k r r' s hr hf hc h => ⟨?_, hlocked.indexError k r r' s hr hf hc h.2⟩
    unfold State.indexError
    dsimp only
    split <;> refine h.1.same ?_ rfl rfl rfl rfl <;> simp [State.flightTickets, State.changeSync, hr]
  case countQuad =>
    refine fun s h => ⟨h.1.same ?_ ?_ ?_ ?_ ?_, hlocked.countQuad s h.2⟩
    all_goals simp [State.flightTickets]
  all_goals
    intros
    assumption

theorem State.accounts_kept : Kept fun s => s.accounts T ∧ s.commitLocked := by
  have hevents := State.accounts_eventsKept (T := T)
  have hlocked := State.commitLocked_kept
  constructor
  case reset => exact fun c n b s => ⟨State.reset_accounts, hlocked.reset c n b s⟩
  case sampleInputs =>
    refine fun lv s h => ⟨State.ordered_accounts (Config.completionOrder s.free) h.1 rfl ?_ ?_ rfl rfl, h.2⟩
    · simp [State.sampleInputs]
    · simp [State.sampleInputs, Rsc.ordered]
  case step => exact fun d turn s _ => hevents.takeStep d turn s
  case stepSpeed => exact fun d s _ => hevents.stepSpeed d s
  case quadError => exact fun turn s _ => hevents.takeQuadError turn s
  case countQuad => exact fun s _ => hevents.countQuad s
  case indexEvent => exact fun turn s _ => hevents.takeIndexEvent turn s
  case refEdge => exact hevents.takeRefEdge
  case lcuEdge =>
    refine fun n back s h => ⟨?_, hlocked.lcuEdge n back s h.2⟩
    unfold State.takeLcuEdge
    split
    · unfold State.captureEdge
      dsimp only
      split <;> exact h.1
    · exact h.1
  case handOver => exact fun k s hk h => ⟨State.handOverKind_accounts k h.1, hlocked.handOver k s hk h.2⟩
  case seek =>
    exact fun src p s hq hs hroom h =>
      ⟨State.startSeek_accounts src p hs hroom h.1, hlocked.seek src p s hq hs hroom h.2⟩
  case seekAbort => exact fun r c s hr => hevents.failSeek r _ c s hr
  case release =>
    intro s hs h
    have hsync : (s.changeSync .free .release).flightTickets = s.flightTickets := by
      cases h : s.rft.sync <;> simp_all [State.flightTickets, State.changeSync, Sync.state]
    exact ⟨State.bscLeft_accounts (h.1.same hsync rfl rfl rfl rfl) fun _ _ => by simp [State.changeSync, Sync.state],
      State.bscLeft_commitLocked _⟩
  case startCommit =>
    exact fun c s hl hnone hroom hp h =>
      ⟨State.startCommit_accounts c hl hnone hroom h.1, hlocked.startCommit c s hl hnone hroom hp h.2⟩
  case cancelCommit =>
    exact fun c s hc h => ⟨h.1.endCommit hc (h.2.held.not_seeking hc) rfl rfl rfl rfl rfl, hlocked.cancelCommit c s hc h.2⟩
  case order => exact fun code s h => ⟨State.ordered_accounts code h.1 rfl rfl rfl rfl rfl, h.2⟩
  case taken => exact fun own mask s h => ⟨h.1.same rfl (by simp) (by simp) (by simp) rfl, h.2⟩
  case reports =>
    refine fun e n s h => ⟨h.1.same rfl ?_ ?_ ?_ rfl, h.2⟩
    all_goals simp [Rsc.configure]
  case setSpeed =>
    refine fun d m l s h => ⟨h.1.same ?_ ?_ ?_ ?_ ?_, hlocked.setSpeed d m l s h.2⟩
    case refine_4 =>
      unfold State.setSpeed
      dsimp only
      split <;> rfl
    all_goals simp [State.flightTickets]
  all_goals
    intros
    assumption

/-- Settles O55. The tickets form a ledger: every long operation is accepted with the next ticket while there is room, and
ends as the newest completion; a report takes the oldest, and the order of a sample's completions is any. -/
theorem longOperationsStayCounted : Obligations.LongOperationsStayCounted := by
  refine ⟨fun s t h hs => ?_, fun s t h hops htickets => ?_⟩
  · rw [State.operationsSound_iff] at hs ⊢
    exact State.accounts_kept.next h hs
  · exact ((State.tickets_iff t).mpr (State.accounts_kept.next h ((State.tickets_iff s).mp ⟨hops, htickets⟩))).2

end Sys2Proof.Machine
end

section
/-! SUPPORT. The reset state, NRST low, the end of the start-up idle time (R181, R184, R197). -/

namespace Sys2Proof.Machine

/-- Settles O52. Each part is sound at its own reset values. -/
theorem resetStateIsSound : Obligations.ResetStateIsSound := by
  obtain ⟨hoperations, htickets⟩ := State.reset.tickets_iff.mpr
    ⟨State.reset_accounts, State.commitLocked_kept.reset .powerOn 0 0 State.reset⟩
  exact ⟨State.reset.axisSound_iff.mpr ⟨State.reset_rangesSound, State.commitLocked_kept.reset .powerOn 0 0 State.reset⟩,
    State.reset_checksSound, ⟨Bank.reset_sound _, Bank.reset_sound _⟩, hoperations, htickets, Tsu.reset_sound, Tev.reset_sound,
    Lcu.reset_sound, Rsc.reset_sound _, Lkp.reset_sound _ _ _⟩

/-- A part held in reset does not act. -/
theorem live_of_low {f : State → State} {s : State} (h : s.nrstLow = true) : live f s = .next s := by
  simp [live, h]

/-- Settles O5. NRST low leaves the reset state with NRST held; every row but a reset of its own is `live`, which then
does nothing. -/
theorem nrstLowHoldsThePartInReset : Obligations.NrstLowHoldsThePartInReset := by
  refine ⟨fun s b => ?cleared, fun c s hlow hpower hpin hnrst => ?held⟩
  case cleared =>
    refine ⟨_, _, rfl, rfl, fun i => ?_, rfl, rfl, rfl, rfl, rfl, rfl, rfl, rfl, rfl, rfl, rfl, rfl⟩
    exact congrArg Track.pin (Tev.reset_get i)
  case held =>
    cases c with
    | powerOnReset b => exact absurd rfl (hpower b)
    | pinReset b => exact absurd rfl (hpin b)
    | nrstLow => exact absurd rfl hnrst
    | step | gapExpiry | transmitEnd | rxdIdle =>
      simp only [exec, execStep, execGapExpiry, execTransmitEnd, execRxdIdle]
      exact live_of_low hlow
    | _ => exact live_of_low hlow

/-- Settles O6. With TXD free, the end of the start-up idle time hands HELLO over, which costs no credit. -/
theorem startupIdleEndSendsHello : Obligations.StartupIdleEndSendsHello := by
  intro s cause hhigh htx hhello
  have hends : s.endStartupIdle = State.handOverKind .hello { s with lkp := { s.lkp with tx := .free } } := by
    simp [State.endStartupIdle, hhello]
  calc exec .startupIdleEnd s
      = .next (if s.lkp.tx = .startupIdle then s.endStartupIdle else s) := live_of_high hhigh
    _ = .next (State.handOverKind .hello { s with lkp := { s.lkp with tx := .free } }) := by rw [if_pos htx, hends]
    _ = _ := by
      simp [State.handOverKind, Rsc.handOver, State.reportPayload, State.helloPayload, hhello, ReportKind.code, le8, le16,
        Config.revision, Config.family]

end Sys2Proof.Machine
end

section
/-! SUPPORT. The form of a frame, the CRC, the fields and the codes (R191 to R194, section 10.3). -/

namespace Sys2Proof.Machine

/-! ## Numbers in little-endian bytes -/

theorem u8At_le8 {n : Nat} (h : n < 256) : u8At (le8 n) 0 = n := by
  simp [u8At, byteAt, le8, h]

theorem u16At_le16 {n : Nat} (h : n < 65536) : u16At (le16 n) 0 = n := by
  simp only [u16At, u8At, byteAt, le16, List.getD_cons_zero, List.getD_cons_succ, BitVec.toNat_ofNat]
  omega

theorem u32At_le32 {n : Nat} (h : n < 4294967296) : u32At (le32 n) 0 = n := by
  simp only [u32At, u16At, u8At, byteAt, le32, List.getD_cons_zero, List.getD_cons_succ, BitVec.toNat_ofNat]
  omega

theorem u32At_eq (p : List Byte) (i : Nat) :
    u32At p i = (p.getD i 0).toNat + 256 * (p.getD (i + 1) 0).toNat + 65536 * (p.getD (i + 2) 0).toNat
      + 16777216 * (p.getD (i + 3) 0).toNat := by
  simp only [u32At, u16At, u8At, byteAt, Nat.add_assoc, Nat.reduceAdd]
  omega

theorem s32At_toNat (p : List Byte) (i : Nat) : (s32At p i).toNat = u32At p i := by
  have := (p.getD i 0).isLt
  have := (p.getD (i + 1) 0).isLt
  have := (p.getD (i + 2) 0).isLt
  have := (p.getD (i + 3) 0).isLt
  rw [s32At, BitVec.toNat_ofNat, u32At_eq]
  omega

theorem bitsValue_testBit (bs : List Bool) (i : Nat) : (bitsValue bs).testBit i = bs.getD i false := by
  induction bs generalizing i with
  | nil => simp [bitsValue]
  | cons b bs ih =>
    have hcons : bitsValue (b :: bs) = Nat.bit b (bitsValue bs) := (Nat.bit_val b (bitsValue bs)).symm
    rw [hcons]
    cases i with
    | zero => simp
    | succ i => rw [Nat.testBit_bit_succ, ih, List.getD_cons_succ]

theorem flagByte_getLsbD (bs : List Bool) {i : Nat} (hi : i < 8) : (flagByte bs).getLsbD i = bs.getD i false := by
  rw [flagByte, BitVec.getLsbD_ofNat, bitsValue_testBit]
  simp [hi]

/-! ## The CRC and the frame -/

theorem crc_append (bs : List Byte) (b : Byte) : crc (bs ++ [b]) = crcShifts 8 (crc bs ^^^ (b.setWidth 16 <<< 8)) := by
  simp [crc, crcByte]

theorem crcHigh_append_crcLow (c : Word16) : crcHigh c ++ crcLow c = c := by
  refine BitVec.eq_of_getLsbD_eq fun i hi => ?_
  rw [crcHigh, crcLow, BitVec.getLsbD_append]
  split
  case isTrue hlow => simp [hlow]
  case isFalse hhigh =>
    have hi8 : i - 8 < 8 := by omega
    have hsum : 8 + (i - 8) = i := by omega
    simp [hi8, hsum]

theorem mkFrame_length (seq kind : Byte) (p : List Byte) : (mkFrame seq kind p).length = p.length + 6 := by
  simp [mkFrame]

theorem mkFrame_crc (seq kind : Byte) (p : List Byte) :
    ∃ hi lo : Byte, mkFrame seq kind p = 0xB7 :: (BitVec.ofNat 8 p.length :: seq :: kind :: p) ++ [hi, lo]
      ∧ hi ++ lo = crc (BitVec.ofNat 8 p.length :: seq :: kind :: p) :=
  ⟨_, _, rfl, crcHigh_append_crcLow _⟩

theorem crcShift_of_msb {r : Word16} :
    (r.getLsbD 15 = true → crcShift r = (r <<< 1) ^^^ 0x1021) ∧ (r.getLsbD 15 = false → crcShift r = r <<< 1) := by
  rw [← show r.msb = r.getLsbD 15 from BitVec.msb_eq_getLsbD_last r]
  exact ⟨fun h => if_pos h, fun h => if_neg (by simp [h])⟩

/-! ## The codes -/

theorem lookup_cons_eq_ite {α : Type} (n k : Nat) (v : α) (l : List (Nat × α)) :
    ((k, v) :: l).lookup n = if n = k then some v else l.lookup n := by
  rw [List.lookup_cons]
  split <;> simp_all

section
variable (b : Byte)

theorem yesNo?_eq_lookup : yesNo? b = ([(0x00, false), (0x01, true)] : List (Nat × Bool)).lookup b.toNat := by
  unfold yesNo?
  split <;> simp_all [lookup_cons_eq_ite]

theorem countMode?_eq_lookup :
    countMode? b = ([(0x01, .x1), (0x02, .x2), (0x04, .x4)] : List (Nat × CountMode)).lookup b.toNat := by
  unfold countMode?
  split <;> simp_all [lookup_cons_eq_ite]

theorem winDir?_eq_lookup :
    winDir? b = ([(0x00, .fwd), (0x01, .rev), (0x02, .both)] : List (Nat × WinDir)).lookup b.toNat := by
  unfold winDir?
  split <;> simp_all [lookup_cons_eq_ite]

theorem source?_eq_lookup :
    source? b = ([(0x00, .index), (0x01, .latch 0), (0x02, .latch 1), (0x03, .latch 2), (0x04, .latch 3)]
      : List (Nat × Source)).lookup b.toNat := by
  unfold source?
  split <;> simp_all [lookup_cons_eq_ite]

theorem edgeSel?_eq_lookup :
    edgeSel? b = ([(0x00, .off), (0x01, .rise), (0x02, .fall), (0x03, .both)] : List (Nat × EdgeSel)).lookup b.toNat := by
  unfold edgeSel?
  split <;> simp_all [lookup_cons_eq_ite]

theorem latchMode?_eq_lookup :
    latchMode? b = ([(0x00, .continuous), (0x01, .single)] : List (Nat × LatchMode)).lookup b.toNat := by
  unfold latchMode?
  split <;> simp_all [lookup_cons_eq_ite]

theorem indexPolicy?_eq_lookup :
    indexPolicy? b = ([(0x00, .observe), (0x01, .correct)] : List (Nat × IndexPolicy)).lookup b.toNat := by
  unfold indexPolicy?
  split <;> simp_all [lookup_cons_eq_ite]

theorem trackMode?_eq_lookup :
    trackMode? b = ([(0x00, .normal), (0x01, .forceOn), (0x02, .forceOff)] : List (Nat × TrackMode)).lookup b.toNat := by
  unfold trackMode?
  split <;> simp_all [lookup_cons_eq_ite]

theorem safe?_eq_lookup :
    safe? b = ([(0x00, .off), (0x01, .on), (0x02, .hold)] : List (Nat × SafeLevel)).lookup b.toNat := by
  unfold safe?
  split <;> simp_all [lookup_cons_eq_ite]

theorem polarity?_eq_lookup :
    polarity? b = ([(0x00, .activeHigh), (0x01, .activeLow)] : List (Nat × Polarity)).lookup b.toNat := by
  unfold polarity?
  split <;> simp_all [lookup_cons_eq_ite]

end

/-- Settles O34. The CRC and the frame, then the fields, then the codes, which are read and written by the same table. -/
theorem framesCarryTheirCrcAndCodes : Obligations.FramesCarryTheirCrcAndCodes := by
  refine ⟨⟨rfl, crc_append, fun _ => crcShift_of_msb, by decide +kernel, by decide +kernel,
      fun seq kind p => ⟨mkFrame_length seq kind p, mkFrame_crc seq kind p⟩⟩, ⟨?fields, ?little, ?signed, ?words, ⟨rfl, rfl⟩, ?flags⟩,
    ⟨?decoded, ?encoded⟩⟩
  case fields => exact fun p i => ⟨rfl, rfl, u32At_eq p i, s32At_toNat p i⟩
  case little => exact fun n => ⟨u8At_le8, u16At_le16, u32At_le32, rfl⟩
  case signed => exact fun x => ⟨by simp [s32, word32], by simp [s16]⟩
  case words => exact fun w v => ⟨rfl, rfl⟩
  case flags => exact fun bs i _ hi => flagByte_getLsbD bs hi
  case decoded =>
    exact fun b => ⟨yesNo?_eq_lookup b, countMode?_eq_lookup b, winDir?_eq_lookup b, source?_eq_lookup b, edgeSel?_eq_lookup b,
      latchMode?_eq_lookup b, indexPolicy?_eq_lookup b, trackMode?_eq_lookup b, safe?_eq_lookup b, polarity?_eq_lookup b⟩
  case encoded =>
    exact ⟨rfl, rfl, rfl, rfl, rfl, rfl, rfl, rfl, rfl, fun _ => rfl, rfl, rfl, rfl, rfl, rfl, rfl, rfl, rfl⟩

end Sys2Proof.Machine
end

section
/-! SUPPORT. What the fields of a request decode to: a code in its table gives its value, a code beyond it none
(section 10.3). -/

namespace Sys2Proof.Machine

section
variable {b : Byte}

theorem yesNo?_of_le (h : b.toNat ≤ 1) : yesNo? b = some (decide (b.toNat = 1)) := by
  obtain h | h := Nat.le_one_iff_eq_zero_or_eq_one.mp h <;> simp [yesNo?, h]

theorem yesNo?_of_lt (h : 1 < b.toNat) : yesNo? b = none := by
  rw [yesNo?_eq_lookup]
  simp [lookup_cons_eq_ite, show b.toNat ≠ 0 by omega, show b.toNat ≠ 1 by omega]

theorem indexPolicy?_of_le (h : b.toNat ≤ 1) : indexPolicy? b = some (if b.toNat = 1 then .correct else .observe) := by
  obtain h | h := Nat.le_one_iff_eq_zero_or_eq_one.mp h <;> simp [indexPolicy?, h]

theorem indexPolicy?_of_lt (h : 1 < b.toNat) : indexPolicy? b = none := by
  rw [indexPolicy?_eq_lookup]
  simp [lookup_cons_eq_ite, show b.toNat ≠ 0 by omega, show b.toNat ≠ 1 by omega]

theorem latchMode?_of_le (h : b.toNat ≤ 1) : latchMode? b = some (if b.toNat = 1 then .single else .continuous) := by
  obtain h | h := Nat.le_one_iff_eq_zero_or_eq_one.mp h <;> simp [latchMode?, h]

theorem latchMode?_of_lt (h : 1 < b.toNat) : latchMode? b = none := by
  rw [latchMode?_eq_lookup]
  simp [lookup_cons_eq_ite, show b.toNat ≠ 0 by omega, show b.toNat ≠ 1 by omega]

theorem edgeSel?_of_lt (h : 3 < b.toNat) : edgeSel? b = none := by
  rw [edgeSel?_eq_lookup]
  simp [lookup_cons_eq_ite, show b.toNat ≠ 0 by omega, show b.toNat ≠ 1 by omega, show b.toNat ≠ 2 by omega,
    show b.toNat ≠ 3 by omega]

theorem winDir?_of_lt (h : 2 < b.toNat) : winDir? b = none := by
  rw [winDir?_eq_lookup]
  simp [lookup_cons_eq_ite, show b.toNat ≠ 0 by omega, show b.toNat ≠ 1 by omega, show b.toNat ≠ 2 by omega]

theorem trackMode?_of_lt (h : 2 < b.toNat) : trackMode? b = none := by
  rw [trackMode?_eq_lookup]
  simp [lookup_cons_eq_ite, show b.toNat ≠ 0 by omega, show b.toNat ≠ 1 by omega, show b.toNat ≠ 2 by omega]

theorem safe?_of_lt (h : 2 < b.toNat) : safe? b = none := by
  rw [safe?_eq_lookup]
  simp [lookup_cons_eq_ite, show b.toNat ≠ 0 by omega, show b.toNat ≠ 1 by omega, show b.toNat ≠ 2 by omega]

theorem polarity?_of_lt (h : 1 < b.toNat) : polarity? b = none := by
  rw [polarity?_eq_lookup]
  simp [lookup_cons_eq_ite, show b.toNat ≠ 0 by omega, show b.toNat ≠ 1 by omega]

theorem trackMode?_of_code {m : TrackMode} (h : m.code = b) : trackMode? b = some m := by
  subst h
  cases m <;> rfl

theorem safe?_of_code {f : SafeLevel} (h : f.code = b) : safe? b = some f := by
  subst h
  cases f <;> rfl

theorem polarity?_of_code {p : Polarity} (h : p.code = b) : polarity? b = some p := by
  subst h
  cases p <;> rfl

theorem bit_of_le (h : b.toNat ≤ 1) : bit (decide (b.toNat = 1)) = b := by
  obtain h | h := Nat.le_one_iff_eq_zero_or_eq_one.mp h <;> simp [bit, h] <;> bv_omega

end

theorem latchAt_of_lt {p : List Byte} {i : Nat} (h : 3 < u8At p i) : latchAt p i = none := by
  simp [latchAt, Nat.not_lt.mpr h]

theorem latchAt_of_eq {p : List Byte} {i : Nat} {n : Fin 4} (h : u8At p i = n.val) : latchAt p i = some n := by
  simp [latchAt, h]

/-! ## INDEX_CHECK_SET (R39) -/

section
variable {s : State} {p : List Byte}

theorem ownIndexCheckSet_of_range (h : u8At p 2 < 1 ∨ 7 < u8At p 2) : ownIndexCheckSet s p = refuse .range s := if_pos h

theorem ownIndexCheckSet_of_badValue (hrange : ¬(u8At p 2 < 1 ∨ 7 < u8At p 2)) (h : 1 < u8At p 0 ∨ 1 < u8At p 3) :
    ownIndexCheckSet s p = refuse .badValue s := by
  rw [ownIndexCheckSet, if_neg hrange]
  obtain h | h := h
  · rw [yesNo?_of_lt h]
  · rw [indexPolicy?_of_lt h]
    split <;> simp_all

theorem ownIndexCheckSet_of_sound (hrange : ¬(u8At p 2 < 1 ∨ 7 < u8At p 2)) (h : ¬(1 < u8At p 0 ∨ 1 < u8At p 3)) :
    ownIndexCheckSet s p = carryOut .ok []
      { s with rft := { s.rft with configured :=
        { check := decide (u8At p 0 = 1), tolerance := u8At p 1, limit := u8At p 2
          policy := if u8At p 3 = 1 then .correct else .observe } } } := by
  obtain ⟨hcheck, hpolicy⟩ := not_or.mp h
  rw [ownIndexCheckSet, if_neg hrange, yesNo?_of_le (Nat.not_lt.mp hcheck), indexPolicy?_of_le (Nat.not_lt.mp hpolicy)]
  rfl

end

/-- Settles O40. The row answers as its owner does, check by check. -/
theorem indexCheckSetReplacesTheConfiguredSet : Obligations.IndexCheckSetReplacesTheConfiguredSet := by
  intro s r rest ho
  obtain ⟨t, hexec, hrefused, hdone⟩ := State.executeKind_answers ownIndexCheckSet ho
  refine ⟨t, hexec, ?_⟩
  split
  case isTrue hrange => exact hrefused .range (ownIndexCheckSet_of_range hrange)
  case isFalse hrange =>
    split
    case isTrue hvalue => exact hrefused .badValue (ownIndexCheckSet_of_badValue hrange hvalue)
    case isFalse hvalue => exact hdone _ .ok _ rfl (ownIndexCheckSet_of_sound hrange hvalue)

end Sys2Proof.Machine
end

section
/-! SUPPORT. The latch and capture requests (R133 to R137). -/

namespace Sys2Proof.Machine

section
variable {s : State} {p : List Byte} {n : Fin 4}

/-! ## LATCH_SET (R133, R134) -/

theorem ownLatchSet_of_range (h : 3 < u8At p 0 ∨ 15 < u8At p 3) : ownLatchSet s p = refuse .range s := by
  by_cases hlatch : 3 < u8At p 0
  · rw [ownLatchSet, latchAt_of_lt hlatch]
  · have hn : u8At p 0 = (⟨u8At p 0, Nat.lt_succ_of_le (Nat.not_lt.mp hlatch)⟩ : Fin 4).val := rfl
    rw [ownLatchSet, latchAt_of_eq hn]
    exact if_pos (h.resolve_left hlatch)

theorem ownLatchSet_of_badValue (hn : u8At p 0 = n.val) (hlen : u8At p 3 ≤ 15) (h : 3 < u8At p 1 ∨ 1 < u8At p 2) :
    ownLatchSet s p = refuse .badValue s := by
  rw [ownLatchSet, latchAt_of_eq hn]
  dsimp only
  rw [if_neg (Nat.not_lt.mpr hlen)]
  obtain h | h := h
  · rw [edgeSel?_of_lt h]
  · rw [latchMode?_of_lt h]
    split <;> simp_all

theorem ownLatchSet_of_sound {edge : EdgeSel} (hn : u8At p 0 = n.val) (hlen : u8At p 3 ≤ 15) (hmode : u8At p 2 ≤ 1)
    (hedge : edgeSel? (byteAt p 1) = some edge) :
    ownLatchSet s p =
      let l := (s.lcu.latches.get n).configure edge (if u8At p 2 = 1 then .single else .continuous) (u16At p 4) (u8At p 3)
      carryOut .ok [l.arm.code, bit (s.lcu.latches.get n).filter.level] (s.setLatch n l) := by
  rw [ownLatchSet, latchAt_of_eq hn]
  dsimp only
  rw [if_neg (Nat.not_lt.mpr hlen), hedge, latchMode?_of_le hmode]
  rfl

/-! ## LATCH_ARM (R135) -/

theorem ownLatchArm_of_range (h : 3 < u8At p 0) : ownLatchArm s p = refuse .range s := by
  rw [ownLatchArm, latchAt_of_lt h]

theorem ownLatchArm_of_off (hn : u8At p 0 = n.val) (hoff : (s.lcu.latches.get n).arm = .off) :
    ownLatchArm s p = refuse .state s := by
  rw [ownLatchArm, latchAt_of_eq hn]
  exact if_pos hoff

theorem ownLatchArm_of_on (hn : u8At p 0 = n.val) (hon : (s.lcu.latches.get n).arm ≠ .off) :
    ownLatchArm s p = carryOut .ok
      ([(s.lcu.latches.get n).arm.code, bit (s.lcu.latches.get n).filter.level] ++ word16 (s.lcu.latches.get n).lost
        ++ word16 (s.lcu.latches.get n).suppressed)
      (s.setLatch n { s.lcu.latches.get n with arm := .armed }) := by
  rw [ownLatchArm, latchAt_of_eq hn]
  exact if_neg hon

end

/-- Settles O49. For each request, the state that its row answers, then one answer of its owner per clause. -/
theorem latchRequestsConfigureAndArm : Obligations.LatchRequestsConfigureAndArm := by
  refine fun s r rest => ⟨fun ho => ?latchSet, fun ho => ?latchArm⟩
  case latchSet =>
    obtain ⟨t, hexec, hrefused, hdone⟩ := State.executeKind_answers ownLatchSet ho
    refine ⟨t, hexec, fun h => hrefused .range (ownLatchSet_of_range h), fun hlatch hlen h => ?_, ?_⟩
    · have hn : u8At r.payload 0 = (⟨u8At r.payload 0, Nat.lt_succ_of_le hlatch⟩ : Fin 4).val := rfl
      exact hrefused .badValue (ownLatchSet_of_badValue hn hlen h)
    · intro n l hn hlen hmode hedge hl
      have hl : l = (s.lcu.latches.get n).configure l.edge (if u8At r.payload 2 = 1 then .single else .continuous)
          (u16At r.payload 4) (u8At r.payload 3) := hl
      rw [hl]
      exact hdone (s.setLatch n _) .ok _ rfl (ownLatchSet_of_sound hn hlen hmode hedge)
  case latchArm =>
    obtain ⟨t, hexec, hrefused, hdone⟩ := State.executeKind_answers ownLatchArm ho
    refine ⟨t, hexec, fun h => hrefused .range (ownLatchArm_of_range h), ?_⟩
    rintro n l hn rfl
    exact ⟨fun hoff => hrefused .state (ownLatchArm_of_off hn hoff),
      fun hon => hdone (s.setLatch n _) .ok _ rfl (ownLatchArm_of_on hn hon)⟩

/-! ## CAPTURE_READ and CAPTURE_FLUSH (R136, R137) -/

/-- Settles O50. CAPTURE_READ's count and its reply speak of the same front of the queue. -/
theorem captureRequestsRemoveRecords : Obligations.CaptureRequestsRemoveRecords := by
  refine fun s r rest => ⟨fun ho => ?read, fun ho => ?flush⟩
  case read =>
    obtain ⟨t, hexec, hrefused, hdone⟩ := State.executeKind_answers ownCaptureRead ho
    refine ⟨t, hexec, ?_⟩
    split_ifs with hrange
    · exact hrefused .range (if_pos hrange)
    · have hbody := hdone { s with lcu := { s.lcu with queue := s.lcu.queue.drop (u8At r.payload 0) } } .ok
        (s.lcu.readBody (u8At r.payload 0)) rfl (if_neg hrange)
      rw [Lcu.readBody, List.length_take, List.length_drop] at hbody
      exact hbody
  case flush =>
    obtain ⟨t, hexec, -, hdone⟩ := State.executeKind_answers ownCaptureFlush ho
    exact ⟨t, hexec, hdone { s with lcu := { s.lcu with queue := [] } } .ok _ rfl rfl⟩

end Sys2Proof.Machine
end

section
/-! SUPPORT. The execution of the oldest request, whatever its kind and length, and of a request that reads the position or
the speed (R12, R48, R175 to R177). -/

namespace Sys2Proof.Machine

/-- The oldest request is executed by a row that accepts it: the reply of what `act` answers is placed, and of the link
`act` may change the counters alone. -/
theorem State.execute_settled {accepts : Request → Bool} {act : Request → State → State × Answer} {s u : State} {r : Request}
    {rest : List Request} {a : Answer} (hhigh : s.nrstLow = false) (hin : s.lkp.inbound = r :: rest)
    (hroom : s.lkp.replies.length ≤ 4) (hmarked : s.lkp.resetPending = false)
    (hmoved : s.sample.moved = true → s.speedDue = false) (haccepts : accepts r = true)
    (hact : act r (s.takeRequest rest) = (u.evaluate, a))
    (hlink : u.lkp = { s.lkp with inbound := rest, counters := u.lkp.counters }) :
    ∃ t, live (State.execute accepts act) s = .next t ∧ answeredWith s t r rest (replyFrame r a) false ∧ linkKept s t
      ∧ t.lkp.counters = u.lkp.counters ∧ t.lkp.resetPending = false ∧ evaluatedAs u t := by
  have hexecutes : s.lkp.executes = true := by simp [Lkp.executes, hroom, hmarked]
  have hrun : s.execute accepts act = (State.reply r a u.evaluate).settle := by
    unfold State.execute
    rw [hin, State.pairSpeed_eq hmoved]
    simp [hexecutes, haccepts, hact]
  have hpending : u.lkp.resetPending = false := by rw [hlink, hmarked]
  obtain ⟨hanswer, hkept, hcounters, hreset⟩ := State.reply_answeredWith (s := s) (u := u.evaluate) (r := r) (rest := rest)
    (a := a) (by
      show u.lkp = { s.lkp with inbound := rest, resetPending := u.lkp.resetPending, counters := u.lkp.counters }
      rw [hpending, ← hmarked]
      exact hlink)
  obtain ⟨b, hb, hopen⟩ := State.settle_evaluated (s := State.reply r a u.evaluate) (u := u) rfl rfl rfl rfl rfl
  refine ⟨_, live_of_high hhigh, ?_⟩
  rw [hrun, hb]
  rw [show u.evaluate.lkp.resetPending = false from hpending] at hanswer hreset
  exact ⟨hanswer, hkept, hcounters, hreset, rfl, rfl, rfl, rfl, rfl, rfl, rfl, rfl, rfl, rfl, rfl, rfl, rfl, rfl, rfl, rfl,
    rfl, rfl, rfl, hopen⟩

/-- The execution of a request that reads the position or the speed: it finds the state that has caught up. -/
theorem State.executeAfterStep_answers {s : State} {kind : Byte} {r : Request} {rest : List Request} (owner : Owner)
    (ho : s.offers kind r rest) :
    ∃ t, live (State.executeAfterStep kind owner) s = .next t
      ∧ (∀ st, owner (s.catchUp.takeRequest rest) r.payload = refuse st (s.catchUp.takeRequest rest) →
        refused s.catchUp t r rest st.code)
      ∧ ∀ (u : State) st body, u.lkp = s.catchUp.lkp →
        owner (s.catchUp.takeRequest rest) r.payload = carryOut st body (u.takeRequest rest) →
        carriedOut s.catchUp u t r rest st.code body := by
  obtain ⟨hexec, hoffers⟩ := State.executeAfterStep_offers owner ho
  rw [hexec]
  exact State.executeKind_answers owner hoffers

/-! ## LINK_STATUS (R187) -/

section
variable {s : State} {p : List Byte}

theorem ownLinkStatus_of_badValue (h : 1 < u8At p 0) : ownLinkStatus s p = refuse .badValue s := by
  rw [ownLinkStatus, yesNo?_of_lt h]

theorem ownLinkStatus_of_sound (h : u8At p 0 ≤ 1) :
    ownLinkStatus s p = carryOut .ok s.linkBody
      { s with lkp := { s.lkp with counters := if u8At p 0 = 1 then LinkCounters.zero else s.lkp.counters } } := by
  rw [ownLinkStatus, yesNo?_of_le h]
  by_cases hclear : u8At p 0 = 1
  · simp [hclear, show (byteAt p 0).toNat = 1 from hclear]
  · simp [hclear, show (byteAt p 0).toNat ≠ 1 from hclear]

end

/-- Settles O38. The counters are the only part of the link that the request changes, and they are read before that. -/
theorem linkStatusReadsAndClearsTheCounters : Obligations.LinkStatusReadsAndClearsTheCounters := by
  intro s r rest ho
  obtain ⟨t, hexec, hrefused, -⟩ := State.executeKind_answers ownLinkStatus ho
  refine ⟨t, hexec, fun h => hrefused .badValue (ownLinkStatus_of_badValue h), fun h => ?_⟩
  have hlength := checkLength_of_offers ownLinkStatus (s.takeRequest rest) ho
  obtain ⟨hhigh, hin, hroom, hmarked, hmoved, hkind, hlen⟩ := ho
  obtain ⟨t', hexec', hanswer, hkept, hcounters, hreset, heval⟩ := State.execute_settled (accepts := fun r => decide (r.kind = 0x03))
    (act := checkLength ownLinkStatus) hhigh hin hroom hmarked hmoved (by simp [hkind])
    (hlength.trans (ownLinkStatus_of_sound h)) rfl
  obtain rfl : t = t' := Host.Outcome.next.inj (hexec.symm.trans hexec')
  have hreply : replyKind r.kind = r.kind + 0x80 := by rw [replyKind, hkind]; rfl
  rw [replyFrame, hreply] at hanswer
  exact ⟨hanswer, hcounters, hkept, hreset, heval⟩

/-! ## Requests of unknown kind or of the wrong length (R176, R177) -/

theorem requestLength?_eq_lookup (kind : Byte) : requestLength? kind =
    ([(0x01, 0), (0x02, 0), (0x03, 1), (0x04, 0), (0x08, 0), (0x09, 8), (0x0A, 8), (0x0B, 4), (0x0C, 8), (0x0D, 0),
      (0x0E, 0), (0x0F, 0), (0x10, 8), (0x11, 0), (0x18, 6), (0x19, 4), (0x1A, 1), (0x1B, 2), (0x1C, 6), (0x1D, 0),
      (0x1E, 0)] ++
     [(0x20, 4), (0x21, 0), (0x28, 1), (0x29, 6), (0x2A, 1), (0x30, 6), (0x31, 1), (0x32, 1), (0x33, 0), (0x38, 4),
      (0x39, 1), (0x3A, 0)] : List (Nat × Nat)).lookup kind.toNat := by
  revert kind
  decide +kernel

theorem checkLength_of_wrong {owner : Owner} {r : Request} (s : State) (h : requestLength? r.kind ≠ some r.payload.length) :
    checkLength owner r s = refuse .badLength s := if_neg h

/-- A row executes a request of its kind and of the wrong length, which each COMMIT row takes for its own (log 8); no such
request waits for the step of its sample. -/
theorem exec_wrongLength {c : Instr} {s : State} {r : Request} {rest : List Request} (hc : requestKind c = some r.kind)
    (hin : s.lkp.inbound = r :: rest) (hlen : requestLength? r.kind ≠ some r.payload.length) :
    ∃ accepts owner, exec c s = live (State.execute accepts (checkLength owner)) s ∧ accepts r = true := by
  have row : ∀ (kind : Byte) (owner : Owner), r.kind = kind →
      ∃ accepts o, live (State.executeKind kind owner) s = live (State.execute accepts (checkLength o)) s
        ∧ accepts r = true :=
    fun kind owner hk => ⟨_, owner, rfl, by simp [hk]⟩
  have rowAfterStep : ∀ (kind : Byte) (owner : Owner), r.kind = kind →
      ∃ accepts o, live (State.executeAfterStep kind owner) s = live (State.execute accepts (checkLength o)) s
        ∧ accepts r = true := by
    intro kind owner hk
    have hoffers : s.offersKind kind = false := by
      rw [hk] at hlen
      simp [State.offersKind, hin, hlen]
    have hrun : live (State.executeAfterStep kind owner) s = live (State.executeKind kind owner) s := by
      simp [live, State.executeAfterStep, hoffers]
    rw [hrun]
    exact row kind owner hk
  have rowCommit : ∀ (policy : Nat) (owner : Owner), r.kind = 0x20 →
      ∃ accepts o, live (State.execute (isCommitOf policy) (checkLength owner)) s
        = live (State.execute accepts (checkLength o)) s ∧ accepts r = true := by
    intro policy owner hk
    have hwrong : r.payload.length ≠ 4 := by
      rintro e
      rw [hk, e] at hlen
      exact hlen rfl
    exact ⟨_, owner, rfl, by simp [isCommitOf, hk, hwrong]⟩
  cases c with
  | status | axisGet | axisSet | syncStatus | speedGet | trackStatus => exact rowAfterStep _ _ (Option.some.inj hc).symm
  | commitNow | commitAtPosition | commitAtIndex => exact rowCommit _ _ (Option.some.inj hc).symm
  | identify | linkStatus | reset | positionSet | indexCheckSet | seek | seekAbort | release | speedSet | windowAdd
  | windowRemove | trackClear | trackList | trackParamSet | shadowRevert | bankInfo | commitCancel | outputEnable
  | trackModeSet | latchSet | latchArm | captureRead | captureFlush | reportSet | reportGrant | reportStatus =>
    exact row _ _ (Option.some.inj hc).symm
  | _ => cases hc

theorem requestLength?_of_requestKind {c : Instr} {kind : Byte} (hc : requestKind c = some kind) :
    (requestLength? kind).isSome = true := by
  cases c with
  | identify | linkStatus | reset | positionSet | indexCheckSet | seek | seekAbort | release | speedSet | windowAdd
  | windowRemove | trackClear | trackList | trackParamSet | shadowRevert | bankInfo | commitCancel | outputEnable
  | trackModeSet | latchSet | latchArm | captureRead | captureFlush | reportSet | reportGrant | reportStatus
  | status | axisGet | axisSet | syncStatus | speedGet | trackStatus | commitNow | commitAtPosition | commitAtIndex =>
    cases hc
    rfl
  | _ => cases hc

/-- Settles O35. Both refusals evaluate the tracks and leave everything but the link's queues as it is. -/
theorem unknownKindsAndWrongLengthsAreRefused : Obligations.UnknownKindsAndWrongLengthsAreRefused := by
  refine ⟨requestLength?_eq_lookup, fun s r rest hhigh hin hroom hmarked hmoved hkind => ?unknown,
    fun s c r rest hc hhigh hin hroom hmarked hmoved hlen => ?wrong⟩
  case unknown =>
    obtain ⟨t, hexec, hanswer, hkept, hcounters, hreset, heval⟩ := State.execute_settled
      (accepts := fun r => (requestLength? r.kind).isNone) (act := fun r s => carryOut .badKind [r.kind] s)
      hhigh hin hroom hmarked hmoved (by simp [hkind]) rfl rfl
    refine ⟨t, hexec, ?_, hkept, hcounters, hreset, heval⟩
    rw [replyFrame, show replyKind r.kind = 0xFF by simp [replyKind, hkind]] at hanswer
    exact hanswer
  case wrong =>
    obtain ⟨accepts, owner, hexec, haccepts⟩ := exec_wrongLength hc hin hlen
    obtain ⟨t, hrun, hanswer, hkept, hcounters, hreset, heval⟩ := State.execute_settled (u := s.takeRequest rest) hhigh hin hroom
      hmarked hmoved haccepts (checkLength_of_wrong (s.takeRequest rest) hlen) rfl
    refine ⟨t, hexec.trans hrun, ?_, hkept, hcounters, hreset, heval⟩
    rw [replyFrame, show replyKind r.kind = r.kind + 0x80 by simp [replyKind, requestLength?_of_requestKind hc]] at hanswer
    exact hanswer

end Sys2Proof.Machine
end

section
/-! SUPPORT. The axis requests (R13, R14, R18, R19). -/

namespace Sys2Proof.Machine

section
variable {s : State} {p : List Byte}

/-! ## AXIS_SET (R18, R19) -/

theorem ownAxisSet_of_range (h : u32At p 0 < 8 ∨ 65536 < u32At p 0 ∨ 15 < u8At p 6) : ownAxisSet s p = refuse .range s :=
  if_pos h

section
variable (hrange : ¬(u32At p 0 < 8 ∨ 65536 < u32At p 0 ∨ 15 < u8At p 6))
include hrange

theorem ownAxisSet_of_badValue (h : countMode? (byteAt p 4) = none ∨ 1 < u8At p 5 ∨ 1 < u8At p 7) :
    ownAxisSet s p = refuse .badValue s := by
  rw [ownAxisSet, if_neg hrange]
  split
  case h_1 hmode hinvert henable =>
    obtain h | h | h := h
    · exact absurd (h.symm.trans hmode) (by simp)
    · exact absurd ((yesNo?_of_lt h).symm.trans hinvert) (by simp)
    · exact absurd ((yesNo?_of_lt h).symm.trans henable) (by simp)
  case h_2 => rfl

variable {mode : CountMode} (hmode : countMode? (byteAt p 4) = some mode) (hinvert : u8At p 5 ≤ 1) (henable : u8At p 7 ≤ 1)
include hmode hinvert henable

/-- Past the checks of the fields, AXIS_SET looks at the sync state and at the banks. -/
theorem ownAxisSet_of_fields : ownAxisSet s p =
    if s.rft.sync.state ≠ .free then refuse .state s
    else if s.cts.active.conflicts (u32At p 0) || s.cts.shadow.conflicts (u32At p 0) then refuse .conflict s
    else carryOut .ok [] (s.setAxis
      { cpr := u32At p 0, countMode := mode, invert := decide (u8At p 5 = 1), filterLen := u8At p 6
        indexEnable := decide (u8At p 7 = 1) }) := by
  rw [ownAxisSet, if_neg hrange, hmode, yesNo?_of_le hinvert, yesNo?_of_le henable]
  rfl

theorem ownAxisSet_of_notFree (h : s.rft.sync.state ≠ .free) : ownAxisSet s p = refuse .state s := by
  rw [ownAxisSet_of_fields hrange hmode hinvert henable, if_pos h]

theorem ownAxisSet_of_conflict (h : s.rft.sync.state = .free)
    (hc : (s.cts.active.conflicts (u32At p 0) || s.cts.shadow.conflicts (u32At p 0)) = true) :
    ownAxisSet s p = refuse .conflict s := by
  rw [ownAxisSet_of_fields hrange hmode hinvert henable, if_neg (not_not.mpr h), if_pos hc]

theorem ownAxisSet_of_free (h : s.rft.sync.state = .free)
    (hc : (s.cts.active.conflicts (u32At p 0) || s.cts.shadow.conflicts (u32At p 0)) = false) :
    ownAxisSet s p = carryOut .ok [] (s.setAxis
      { cpr := u32At p 0, countMode := mode, invert := decide (u8At p 5 = 1), filterLen := u8At p 6
        indexEnable := decide (u8At p 7 = 1) }) := by
  rw [ownAxisSet_of_fields hrange hmode hinvert henable, if_neg (not_not.mpr h), if_neg (Bool.eq_false_iff.mp hc)]

end

end

theorem Oct.mem_toList {α : Type} {o : Oct α} {x : α} : x ∈ o.toList ↔ ∃ i, x = o.get i := by
  constructor
  · intro h
    simp only [Oct.toList, List.mem_cons, List.not_mem_nil, or_false] at h
    obtain h | h | h | h | h | h | h | h := h
    exacts [⟨0, h⟩, ⟨1, h⟩, ⟨2, h⟩, ⟨3, h⟩, ⟨4, h⟩, ⟨5, h⟩, ⟨6, h⟩, ⟨7, h⟩]
  · rintro ⟨i, rfl⟩
    fin_cases i <;> simp [Oct.toList, Oct.get]

theorem Bank.conflicts_iff (cpr : Nat) (b : Bank) :
    b.conflicts cpr = true ↔ ∃ i, ∃ w ∈ (b.tracks.get i).windows, cpr ≤ w.on ∨ cpr ≤ w.off := by
  simp only [Bank.conflicts, List.any_eq_true, Bool.or_eq_true, decide_eq_true_eq]
  constructor
  · rintro ⟨t, ht, w, hw, h⟩
    obtain ⟨i, rfl⟩ := Oct.mem_toList.mp ht
    exact ⟨i, w, hw, h⟩
  · rintro ⟨i, w, hw, h⟩
    exact ⟨_, Oct.mem_toList.mpr ⟨i, rfl⟩, w, hw, h⟩

/-- Some window of one of the banks stands at or beyond the new CPR. -/
theorem Cts.conflicts_iff (cpr : Nat) (c : Cts) : (c.active.conflicts cpr || c.shadow.conflicts cpr) = true ↔
    ∃ i : Fin 8, ∃ w, (w ∈ (c.active.tracks.get i).windows ∨ w ∈ (c.shadow.tracks.get i).windows)
      ∧ (cpr ≤ w.on ∨ cpr ≤ w.off) := by
  rw [Bool.or_eq_true, Bank.conflicts_iff, Bank.conflicts_iff]
  constructor
  · rintro (⟨i, w, hw, h⟩ | ⟨i, w, hw, h⟩)
    · exact ⟨i, w, .inl hw, h⟩
    · exact ⟨i, w, .inr hw, h⟩
  · rintro ⟨i, w, hw | hw, h⟩
    · exact .inl ⟨i, w, hw, h⟩
    · exact .inr ⟨i, w, hw, h⟩

/-- Settles O39. AXIS_SET is answered on the state that has caught up; what stands in the way of a new CPR is a window of
one of the banks. -/
theorem axisSetAndPositionSetReplaceThePosition : Obligations.AxisSetAndPositionSetReplaceThePosition := by
  refine ⟨?axisSet, ?positionSet⟩
  case axisSet =>
    rintro s r rest ho v rfl
    obtain ⟨t, hexec, hrefused, hdone⟩ := State.executeAfterStep_answers ownAxisSet ho
    refine ⟨t, hexec, fun h => hrefused .range (ownAxisSet_of_range h), fun hlow hhigh hlen => ?_⟩
    have hrange : ¬(u32At r.payload 0 < 8 ∨ 65536 < u32At r.payload 0 ∨ 15 < u8At r.payload 6) := by omega
    refine ⟨fun h => hrefused .badValue (ownAxisSet_of_badValue hrange h), fun mode hmode hinvert henable => ?_⟩
    refine ⟨fun h => hrefused .state (ownAxisSet_of_notFree hrange hmode hinvert henable h), fun hfree => ⟨fun hc => ?_, fun hc => ?_⟩⟩
    · exact hrefused .conflict (ownAxisSet_of_conflict hrange hmode hinvert henable hfree ((Cts.conflicts_iff _ _).mpr hc))
    · have hnone : (s.catchUp.cts.active.conflicts (u32At r.payload 0) || s.catchUp.cts.shadow.conflicts (u32At r.payload 0))
          = false := by
        refine Bool.eq_false_iff.mpr fun h => ?_
        obtain ⟨i, w, hw, hbeyond⟩ := (Cts.conflicts_iff _ _).mp h
        have := hc i w hw
        omega
      exact hdone (s.catchUp.setAxis _) .ok _ rfl (ownAxisSet_of_free hrange hmode hinvert henable hfree hnone)
  case positionSet =>
    intro s r rest ho
    obtain ⟨t, hexec, hrefused, hdone⟩ := State.executeKind_answers ownPositionSet ho
    refine ⟨t, hexec, ?_⟩
    split
    case isTrue h => exact hrefused .range (if_pos h)
    case isFalse hrange =>
      split
      case isTrue h => exact hrefused .badValue ((if_neg hrange).trans (if_pos h))
      case isFalse hvalue =>
        split
        case isTrue h => exact hrefused .state ((if_neg hrange).trans ((if_neg hvalue).trans (if_pos h)))
        case isFalse hfree =>
          exact hdone (s.jump _) .ok _ rfl ((if_neg hrange).trans ((if_neg hvalue).trans (if_neg hfree)))

end Sys2Proof.Machine
end

section
/-! SUPPORT. SEEK, SEEK_ABORT and RELEASE (R25, R31, R32). -/

namespace Sys2Proof.Machine

/-! ## The fields of a SEEK (R25) -/

theorem source?_of_le {b : Byte} (h : b.toNat ≤ 4) :
    ∃ src, source? b = some src ∧ src.code = b ∧ (src = .index ↔ b.toNat = 0) := by
  have hcases : b = 0 ∨ b = 1 ∨ b = 2 ∨ b = 3 ∨ b = 4 := by bv_omega
  obtain rfl | rfl | rfl | rfl | rfl := hcases
  exacts [⟨.index, by decide⟩, ⟨.latch 0, by decide⟩, ⟨.latch 1, by decide⟩, ⟨.latch 2, by decide⟩, ⟨.latch 3, by decide⟩]

theorem source?_of_lt {b : Byte} (h : 4 < b.toNat) : source? b = none := by
  rw [source?_eq_lookup]
  simp [lookup_cons_eq_ite, show b.toNat ≠ 0 by omega, show b.toNat ≠ 1 by omega, show b.toNat ≠ 2 by omega,
    show b.toNat ≠ 3 by omega, show b.toNat ≠ 4 by omega]

/-- A SEEK has a value that is in no table: an unknown source, or a latch source with no edge selected. -/
def seekBad (p : List Byte) : Prop := 4 < u8At p 0 ∨ (1 ≤ u8At p 0 ∧ (u8At p 1 < 1 ∨ 3 < u8At p 1))

theorem seekFields?_of_bad {p : List Byte} (h : seekBad p) : seekFields? p = none := by
  unfold seekFields?
  by_cases hsource : 4 < u8At p 0
  · rw [source?_of_lt hsource]
  · obtain ⟨hlatch, hedge⟩ := h.resolve_left hsource
    obtain ⟨src, hsrc, -, hindex⟩ := source?_of_le (b := byteAt p 0) (Nat.not_lt.mp hsource)
    rw [hsrc]
    cases src with
    | index => exact absurd (hindex.mp rfl) (Nat.one_le_iff_ne_zero.mp hlatch)
    | latch n => exact if_neg (by omega)

theorem seekFields?_of_sound {p : List Byte} (h : ¬seekBad p) :
    ∃ src, seekFields? p = some src ∧ src.code = byteAt p 0 ∧ (src = .index ↔ u8At p 0 = 0) := by
  obtain ⟨hsource, hedge⟩ := not_or.mp h
  obtain ⟨src, hsrc, hcode, hindex⟩ := source?_of_le (b := byteAt p 0) (Nat.not_lt.mp hsource)
  refine ⟨src, ?_, hcode, hindex⟩
  unfold seekFields?
  rw [hsrc]
  cases src with
  | index => rfl
  | latch n =>
    have hlatch : u8At p 0 ≠ 0 := fun e => by simpa using hindex.mpr e
    exact if_pos (by omega)

/-! ## SEEK (R25) -/

section
variable {s : State} {p : List Byte}

theorem ownSeek_of_range (h : s.pcu.axis.cpr ≤ u16At p 2 ∨ 16777215 < u32At p 4) : ownSeek s p = refuse .range s := if_pos h

theorem ownSeek_of_badValue (hrange : ¬(s.pcu.axis.cpr ≤ u16At p 2 ∨ 16777215 < u32At p 4)) (h : seekFields? p = none) :
    ownSeek s p = refuse .badValue s := by
  rw [ownSeek, if_neg hrange, h]

theorem ownSeek_of_fields {src : Source} (hrange : ¬(s.pcu.axis.cpr ≤ u16At p 2 ∨ 16777215 < u32At p 4))
    (h : seekFields? p = some src) : ownSeek s p =
      if src = .index ∧ s.pcu.axis.indexEnable = false then refuse .state s
      else if s.rft.sync.state = .seeking then refuse .pending s
      else if s.rsc.hasRoom = false then refuse .noRoom s
      else carryOut .accepted [s.bsc.nextTicket] (s.startSeek src p) := by
  rw [ownSeek, if_neg hrange, h]

end

theorem Rsc.hasRoom_eq_false_iff (r : Rsc) : r.hasRoom = false ↔ 4 ≤ r.inFlight + r.waiting.length := by
  rw [Rsc.hasRoom, decide_eq_false_iff_not]
  omega

/-- The RSC after an accepted SEEK: one operation more in flight, and the abandoned commit, where there was one, among the
completions (R114, R152). -/
theorem State.startSeek_rsc (src : Source) (p : List Byte) (s : State) : (s.startSeek src p).rsc =
    match s.bsc.commit with
    | none => { s.rsc.syncEvent .seeking .seek s.tsu.timebase with inFlight := s.rsc.inFlight + 1 }
    | some c => { s.rsc.syncEvent .seeking .seek s.tsu.timebase with
        inFlight := s.rsc.inFlight
        waiting := s.rsc.waiting ++ [{ ticket := c.ticket, op := .commit, outcome := .abandoned
                                       time := s.tsu.timebase, pos := none, generation := none }]
        recent := s.rsc.recent + 1 } := by
  cases hc : s.bsc.commit with
  | none =>
    have h : (s.startSeek src p).rsc = s.rsc.accept.syncEvent .seeking .seek s.tsu.timebase := by
      simp [State.startSeek, State.bscLeft, State.changeSync, Sync.state, hc]
    exact h
  | some c =>
    have h : (s.startSeek src p).rsc = (s.rsc.accept.syncEvent .seeking .seek s.tsu.timebase).complete
        { ticket := c.ticket, op := .commit, outcome := .abandoned, time := s.tsu.timebase, pos := none
          generation := none } := by
      simp [State.startSeek, State.bscLeft, State.changeSync, Sync.state, hc]
    exact h

theorem State.startSeek_bsc (src : Source) (p : List Byte) (s : State) :
    (s.startSeek src p).bsc = { commit := none, nextTicket := nextTicket s.bsc.nextTicket } := by
  simp [State.startSeek, State.bscLeft, State.changeSync, Sync.state]

/-- Settles O41. The record of the statement is the one that the owner makes, whose code of the edge is free for source
INDEX. -/
theorem seekStartsASeek : Obligations.SeekStartsASeek := by
  intro s r rest ho
  obtain ⟨t, hexec, hrefused, hdone⟩ := State.executeKind_answers ownSeek ho
  refine ⟨t, hexec, ?_⟩
  split
  case isTrue h => exact hrefused .range (ownSeek_of_range h)
  case isFalse hrange =>
  split
  case isTrue h => exact hrefused .badValue (ownSeek_of_badValue hrange (seekFields?_of_bad h))
  case isFalse hvalue =>
  obtain ⟨src, hsrc, hcode, hindex⟩ := seekFields?_of_sound (p := r.payload) hvalue
  have howner := ownSeek_of_fields (s := s.takeRequest rest) hrange hsrc
  split
  case isTrue h => exact hrefused .state (howner.trans (if_pos (h.imp_left hindex.mpr)))
  case isFalse hstate =>
  have howner := howner.trans (if_neg fun h => hstate (h.imp_left hindex.mp))
  split
  case isTrue h => exact hrefused .pending (howner.trans (if_pos h))
  case isFalse hseeking =>
  have howner := howner.trans (if_neg hseeking)
  split
  case isTrue h => exact hrefused .noRoom (howner.trans (if_pos ((Rsc.hasRoom_eq_false_iff _).mpr h)))
  case isFalse hroom =>
    refine ⟨s.seekRecord src r.payload, rfl, hcode, fun hlatch => ?_, rfl, rfl, rfl, ?_⟩
    · cases src with
      | index => exact absurd (hindex.mp rfl) (Nat.one_le_iff_ne_zero.mp hlatch)
      | latch n => rfl
    · have hdone := hdone (s.startSeek src r.payload) .accepted [s.bsc.nextTicket] (by simp)
        (howner.trans (if_neg fun h => hroom ((Rsc.hasRoom_eq_false_iff _).mp h)))
      refine hdone.congr rfl rfl rfl rfl rfl ?_ rfl rfl ?_ rfl rfl ⟨rfl, rfl, rfl, rfl, rfl, rfl, rfl, rfl, id⟩
      · exact (s.startSeek_bsc src r.payload).symm
      · exact (s.startSeek_rsc src r.payload).symm

/-! ## SEEK_ABORT and RELEASE (R31, R32) -/

/-- Of a change, the execution of a request shows every block; the views that it keeps for the captures of its sample it
closes. -/
theorem carriedOut.ofViews {s u t : State} {r : Request} {rest : List Request} {status : Byte} {fields : List Byte}
    (x : List View) (n : Nat)
    (h : carriedOut s { u with sample := { u.sample with views := x, reach := n } } t r rest status fields) :
    carriedOut s u t r rest status fields :=
  h.congr rfl rfl rfl rfl rfl rfl rfl rfl rfl rfl rfl ⟨rfl, rfl, rfl, rfl, rfl, rfl, rfl, rfl, id⟩

section
variable {s : State} {p : List Byte}

theorem ownSeekAbort_of_idle (h : s.rft.sync.state ≠ .seeking) : ownSeekAbort s p = refuse .notPending s := by
  cases hsync : s.rft.sync <;> simp_all [ownSeekAbort, Sync.state]

theorem ownSeekAbort_of_seeking {k : SeekRecord} (h : s.rft.sync = .seeking k) :
    ownSeekAbort s p = carryOut .ok [] (s.failSeek k .aborted .abort) := by
  simp [ownSeekAbort, h]

theorem ownRelease_of_free (h : s.rft.sync.state = .free) : ownRelease s p = carryOut .ok [] s := by
  cases hsync : s.rft.sync <;> simp_all [ownRelease, Sync.state]

theorem ownRelease_of_seeking {k : SeekRecord} (h : s.rft.sync = .seeking k) :
    ownRelease s p = carryOut .ok [] (s.failSeek k .aborted .release) := by
  simp [ownRelease, h]

theorem ownRelease_of_referenced (h : s.rft.sync.state = .locked ∨ s.rft.sync.state = .lost) :
    ownRelease s p = carryOut .ok [] (s.changeSync .free .release).bscLeft := by
  cases hsync : s.rft.sync <;> simp_all [ownRelease, Sync.state]

end

/-- Settles O42. A seek fails with the cause of the request; from LOCKED or LOST the release is a change of sync state
that the BSC takes. -/
theorem seekAbortAndReleaseReturnToFree : Obligations.SeekAbortAndReleaseReturnToFree := by
  refine fun s r rest => ⟨fun ho => ?abort, fun ho => ?release⟩
  case abort =>
    obtain ⟨t, hexec, hrefused, hdone⟩ := State.executeKind_answers ownSeekAbort ho
    refine ⟨t, hexec, fun h => hrefused .notPending (ownSeekAbort_of_idle h), fun k hk => ?_⟩
    exact (hdone (s.failSeek k .aborted .abort) .ok [] (by simp) (ownSeekAbort_of_seeking hk)).ofViews _ _
  case release =>
    obtain ⟨t, hexec, hrefused, hdone⟩ := State.executeKind_answers ownRelease ho
    refine ⟨t, hexec, fun h => hdone s .ok [] rfl (ownRelease_of_free h), fun k hk => ?_, fun h => ⟨fun hc => ?_, fun c hc => ?_⟩⟩
    · exact (hdone (s.failSeek k .aborted .release) .ok [] (by simp) (ownRelease_of_seeking hk)).ofViews _ _
    · have hleft := hdone (s.changeSync .free .release).bscLeft .ok [] (by simp) (ownRelease_of_referenced h)
      refine hleft.congr rfl rfl rfl rfl rfl ?_ rfl rfl ?_ rfl rfl ⟨rfl, rfl, rfl, rfl, rfl, rfl, rfl, rfl, id⟩
      · cases hb : s.bsc
        simp_all [State.bscLeft]
      · simp [State.bscLeft, State.changeSync, hc, Sync.state]
    · have hleft := hdone (s.changeSync .free .release).bscLeft .ok [] (by simp) (ownRelease_of_referenced h)
      refine hleft.congr rfl rfl rfl rfl rfl ?_ rfl rfl ?_ rfl rfl ⟨rfl, rfl, rfl, rfl, rfl, rfl, rfl, rfl, id⟩
      · simp [State.bscLeft, State.changeSync, Sync.state]
      · simp [State.bscLeft, State.changeSync, hc, Sync.state]

end Sys2Proof.Machine
end

section
/-! SUPPORT. COMMIT under a position policy (R105 to R107, R109, R110, R199). -/

namespace Sys2Proof.Machine

section
variable {s : State} {p : List Byte}

/-- The checks that both position policies share, and the acceptance. -/
theorem commitLater_of_notLocked {policy : CommitPolicy} (h : s.rft.sync.state ≠ .locked) :
    commitLater policy s = refuse .state s := if_pos h

theorem commitLater_of_noIndex (h : s.rft.sync.state = .locked) (hindex : s.pcu.axis.indexEnable = false) :
    commitLater .atIndex s = refuse .state s := (if_neg (not_not.mpr h)).trans (if_pos ⟨rfl, hindex⟩)

/-- In LOCKED, with an index input where the policy waits for the index, a commit pending or a full list stands in the way,
and nothing else. -/
theorem commitLater_of_locked {policy : CommitPolicy} (h : s.rft.sync.state = .locked)
    (hindex : ¬(policy = .atIndex ∧ s.pcu.axis.indexEnable = false)) : commitLater policy s =
      if s.bsc.commit.isSome then refuse .pending s
      else if s.rsc.hasRoom = false then refuse .noRoom s
      else carryOut .accepted [s.bsc.nextTicket] (s.startCommit policy) :=
  (if_neg (not_not.mpr h)).trans (if_neg hindex)

theorem ownCommitAtPosition_of_range (hpolicy : u8At p 0 = 1) (h : s.pcu.axis.cpr ≤ u16At p 2) :
    ownCommitAtPosition s p = refuse .range s := if_pos ⟨hpolicy, h⟩

theorem ownCommitAtPosition_of_reserved (hrange : ¬s.pcu.axis.cpr ≤ u16At p 2) (h : byteAt p 1 ≠ 0) :
    ownCommitAtPosition s p = refuse .badValue s :=
  (if_neg fun h => hrange h.2).trans (if_pos (.inr h))

theorem ownCommitAtPosition_of_fields (hpolicy : u8At p 0 = 1) (hrange : ¬s.pcu.axis.cpr ≤ u16At p 2)
    (h : ¬byteAt p 1 ≠ 0) : ownCommitAtPosition s p = commitLater (.atPosition (u16At p 2)) s :=
  (if_neg fun h => hrange h.2).trans (if_neg (not_or.mpr ⟨not_not.mpr hpolicy, h⟩))

theorem ownCommitAtIndex_of_reserved (h : byteAt p 1 ≠ 0) : ownCommitAtIndex s p = refuse .badValue s := if_pos (.inr h)

theorem ownCommitAtIndex_of_fields (hpolicy : u8At p 0 = 2) (h : ¬byteAt p 1 ≠ 0) :
    ownCommitAtIndex s p = commitLater .atIndex s := if_neg (not_or.mpr ⟨not_not.mpr hpolicy, h⟩)

/-- A policy that is none of the three is refused by each of the owners (log 8). -/
theorem ownCommit_of_badPolicy (h : 2 < u8At p 0) : ownCommitNow s p = refuse .badValue s
    ∧ ownCommitAtPosition s p = refuse .badValue s ∧ ownCommitAtIndex s p = refuse .badValue s :=
  ⟨if_pos (.inl (by omega)), (if_neg (by omega)).trans (if_pos (.inl (by omega))), if_pos (.inl (by omega))⟩

end

theorem isCommitOf_of_badPolicy {s : State} {r : Request} {rest : List Request} (policy : Nat) (ho : s.offers 0x20 r rest)
    (h : 2 < u8At r.payload 0) : isCommitOf policy r = true := by
  obtain ⟨-, -, -, -, -, hkind, -⟩ := ho
  simp [isCommitOf, hkind, h]

/-- What the end of the checks answers: a commit pending, a full list, or the acceptance, which waits for a step or an index
event after it. -/
theorem commitLater_answers {s t : State} {r : Request} {rest : List Request} {owner : Owner} {policy : CommitPolicy}
    (hrefused : ∀ st, owner (s.takeRequest rest) r.payload = refuse st (s.takeRequest rest) → refused s t r rest st.code)
    (hdone : ∀ (u : State) st body, u.lkp = s.lkp →
      owner (s.takeRequest rest) r.payload = carryOut st body (u.takeRequest rest) → carriedOut s u t r rest st.code body)
    (howner : owner (s.takeRequest rest) r.payload = commitLater policy (s.takeRequest rest))
    (hlocked : ¬s.rft.sync.state ≠ .locked) (hindex : ¬(policy = .atIndex ∧ s.pcu.axis.indexEnable = false)) :
    if s.bsc.commit ≠ none then refused s t r rest 0x1B
    else if 4 ≤ s.rsc.inFlight + s.rsc.waiting.length then refused s t r rest 0x1C
    else carriedOut s
      { s with
        bsc := { commit := some { ticket := s.bsc.nextTicket, policy := policy }
                 nextTicket := if s.bsc.nextTicket = 255 then 1 else s.bsc.nextTicket + 1 }
        rsc := { s.rsc with inFlight := s.rsc.inFlight + 1 }
        sample := { s.sample with arrival := none } } t r rest 0x01 [s.bsc.nextTicket] := by
  have howner := howner.trans (commitLater_of_locked (s := s.takeRequest rest) (not_not.mp hlocked) hindex)
  split
  case isTrue h => exact hrefused .pending (howner.trans (if_pos (Option.isSome_iff_ne_none.mpr h)))
  case isFalse hnone =>
    have howner := howner.trans (if_neg fun h => hnone (Option.isSome_iff_ne_none.mp h))
    split
    case isTrue h => exact hrefused .noRoom (howner.trans (if_pos ((Rsc.hasRoom_eq_false_iff _).mpr h)))
    case isFalse hroom =>
      exact hdone (s.startCommit policy) .accepted _ rfl
        (howner.trans (if_neg fun h => hroom ((Rsc.hasRoom_eq_false_iff _).mp h)))

/-- Settles O47. The two policies differ in their own checks alone; past them both answer alike. -/
theorem commitWithAPositionPolicyWaits : Obligations.CommitWithAPositionPolicyWaits := by
  refine fun s r rest ho => ⟨fun hpolicy => ?atPosition, fun hpolicy => ?atIndex, fun hpolicy => ?badPolicy⟩
  case atPosition =>
    obtain ⟨t, hexec, hrefused, hdone⟩ := State.execute_answers ownCommitAtPosition ho (isCommitOf_of_offers ho hpolicy)
    refine ⟨t, hexec, ?_⟩
    split
    case isTrue h => exact hrefused .range (ownCommitAtPosition_of_range hpolicy h)
    case isFalse hrange =>
    split
    case isTrue h => exact hrefused .badValue (ownCommitAtPosition_of_reserved hrange h)
    case isFalse hzero =>
    have howner := ownCommitAtPosition_of_fields (s := s.takeRequest rest) hpolicy hrange hzero
    split
    case isTrue h => exact hrefused .state (howner.trans (commitLater_of_notLocked h))
    case isFalse hlocked => exact commitLater_answers hrefused hdone howner hlocked (by simp)
  case atIndex =>
    obtain ⟨t, hexec, hrefused, hdone⟩ := State.execute_answers ownCommitAtIndex ho (isCommitOf_of_offers ho hpolicy)
    refine ⟨t, hexec, ?_⟩
    split
    case isTrue h => exact hrefused .badValue (ownCommitAtIndex_of_reserved h)
    case isFalse hzero =>
    have howner := ownCommitAtIndex_of_fields (s := s.takeRequest rest) hpolicy hzero
    split
    case isTrue h => exact hrefused .state (howner.trans (commitLater_of_notLocked h))
    case isFalse hlocked =>
    split
    case isTrue h => exact hrefused .state (howner.trans (commitLater_of_noIndex (not_not.mp hlocked) h))
    case isFalse hindex => exact commitLater_answers hrefused hdone howner hlocked fun h => hindex h.2
  case badPolicy =>
    obtain ⟨hnow, hposition, hindex⟩ := ownCommit_of_badPolicy (s := s.takeRequest rest) hpolicy
    intro c hc
    simp only [List.mem_cons, List.not_mem_nil, or_false] at hc
    obtain rfl | rfl | rfl := hc
    · obtain ⟨t, hexec, hrefused, -⟩ := State.execute_answers ownCommitNow ho (isCommitOf_of_badPolicy 0 ho hpolicy)
      exact ⟨t, hexec, hrefused .badValue hnow⟩
    · obtain ⟨t, hexec, hrefused, -⟩ := State.execute_answers ownCommitAtPosition ho (isCommitOf_of_badPolicy 1 ho hpolicy)
      exact ⟨t, hexec, hrefused .badValue hposition⟩
    · obtain ⟨t, hexec, hrefused, -⟩ := State.execute_answers ownCommitAtIndex ho (isCommitOf_of_badPolicy 2 ho hpolicy)
      exact ⟨t, hexec, hrefused .badValue hindex⟩

end Sys2Proof.Machine
end

section
/-! SUPPORT. The output requests and the report requests (R98, R99, R145, R158). -/

namespace Sys2Proof.Machine

section
variable {s : State} {p : List Byte} {i : Fin 8}

/-! ## OUTPUT_ENABLE and TRACK_MODE_SET (R98, R99) -/

theorem ownOutputEnable_of_badValue (h : 1 < u8At p 0) : ownOutputEnable s p = refuse .badValue s := by
  rw [ownOutputEnable, yesNo?_of_lt h]

theorem ownOutputEnable_of_sound (h : u8At p 0 ≤ 1) : ownOutputEnable s p =
    carryOutShow (fun t => [bit s.tev.enable] ++ le8 t.tev.levels)
      { s with tev := { s.tev with enable := decide (u8At p 0 = 1) } } := by
  rw [ownOutputEnable, yesNo?_of_le h]
  rfl

/-- Bit n of the `levels` field is the level of track n. -/
theorem Tev.levels_getLsbD (t : Tev) (i : Fin 8) : (BitVec.ofNat 8 t.levels : Byte).getLsbD i.val = (t.tracks.get i).level := by
  have h : (BitVec.ofNat 8 t.levels : Byte) = flagByte (t.tracks.toList.map (·.level)) := rfl
  rw [h, flagByte_getLsbD _ i.isLt]
  fin_cases i <;> rfl

theorem ownTrackModeSet_of_range (h : 7 < u8At p 0) : ownTrackModeSet s p = refuse .range s := by
  rw [ownTrackModeSet, trackAt_of_lt h]

theorem ownTrackModeSet_of_badValue (hi : u8At p 0 = i.val)
    (h : 2 < u8At p 1 ∨ 2 < u8At p 2 ∨ 1 < u8At p 3 ∨ 1 < u8At p 4 ∨ byteAt p 5 ≠ 0) :
    ownTrackModeSet s p = refuse .badValue s := by
  rw [ownTrackModeSet, trackAt_of_eq hi]
  dsimp only
  split
  case h_1 hmode hsafe hpolarity hinhibit =>
    refine if_pos ?_
    obtain h | h | h | h | h := h
    · exact absurd ((trackMode?_of_lt h).symm.trans hmode) (by simp)
    · exact absurd ((safe?_of_lt h).symm.trans hsafe) (by simp)
    · exact absurd ((polarity?_of_lt h).symm.trans hpolarity) (by simp)
    · exact absurd ((yesNo?_of_lt h).symm.trans hinhibit) (by simp)
    · exact h
  case h_2 => rfl

theorem ownTrackModeSet_of_sound {mode : TrackMode} {safe : SafeLevel} {polarity : Polarity} (hi : u8At p 0 = i.val)
    (hmode : mode.code = byteAt p 1) (hsafe : safe.code = byteAt p 2) (hpolarity : polarity.code = byteAt p 3)
    (hinhibit : u8At p 4 ≤ 1) (hzero : byteAt p 5 = 0) : ownTrackModeSet s p =
      carryOutShow
        (fun e => [bit (e.tev.tracks.get i).level, (trackCause e.evalInputs (e.tev.tracks.get i)).code,
          bit (e.tev.tracks.get i).pin])
        (s.setMode i mode safe polarity (decide (u8At p 4 = 1))) := by
  rw [ownTrackModeSet, trackAt_of_eq hi]
  dsimp only
  rw [trackMode?_of_code hmode, safe?_of_code hsafe, polarity?_of_code hpolarity, yesNo?_of_le hinhibit]
  exact if_neg (not_not.mpr hzero)

end

/-- The outputs after a request are those of its evaluation. -/
theorem carriedOut.tev {s u t : State} {r : Request} {rest : List Request} {status : Byte} {fields : List Byte}
    (h : carriedOut s u t r rest status fields) : t.tev = u.evaluate.tev := by
  obtain ⟨-, -, -, -, -, -, -, -, -, -, htev, -⟩ := h
  exact htev

/-- Settles O48. Both requests answer with what the evaluation of their own effect has set, which is what the state after
them shows. -/
theorem outputRequestsSetAndEvaluate : Obligations.OutputRequestsSetAndEvaluate := by
  refine fun s r rest => ⟨fun ho => ?enable, fun ho => ?mode⟩
  case enable =>
    obtain ⟨t, hexec, hrefused, hdone⟩ := State.executeKind_answers ownOutputEnable ho
    refine ⟨t, hexec, fun h => hrefused .badValue (ownOutputEnable_of_badValue h), fun h => ?_⟩
    have hcarried := hdone { s with tev := { s.tev with enable := decide (u8At r.payload 0 = 1) } } .ok _ rfl
      (ownOutputEnable_of_sound h)
    refine ⟨_, fun i => ?_, hcarried⟩
    rw [hcarried.tev]
    exact Tev.levels_getLsbD _ i
  case mode =>
    obtain ⟨t, hexec, hrefused, hdone⟩ := State.executeKind_answers ownTrackModeSet ho
    refine ⟨t, hexec, fun h => hrefused .range (ownTrackModeSet_of_range h), fun i hi =>
      ⟨fun h => hrefused .badValue (ownTrackModeSet_of_badValue hi h), ?_⟩⟩
    intro mode safe polarity hmode hsafe hpolarity hinhibit hzero
    have hcarried := hdone (s.setMode i mode safe polarity (decide (u8At r.payload 4 = 1))) .ok _ rfl
      (ownTrackModeSet_of_sound hi hmode hsafe hpolarity hinhibit hzero)
    have htev := hcarried.tev
    rw [htev]
    exact hcarried

/-! ## REPORT_SET and REPORT_GRANT (R145, R158) -/

/-- Folding events changes the two accumulators alone. -/
theorem Rsc.foldAll_eq (es : List RscEvent) (r : Rsc) :
    es.foldl Rsc.fold r = { r with fault := (es.foldl Rsc.fold r).fault, motion := (es.foldl Rsc.fold r).motion } := by
  induction es generalizing r with
  | nil => rfl
  | cons e es ih =>
    rw [List.foldl_cons, ih]
    cases e <;> rfl

theorem Rsc.takenAll_fields (r : Rsc) :
    r.takenAll = { r with fresh := [], fault := r.takenAll.fault, motion := r.takenAll.motion } := by
  rw [Rsc.takenAll_eq]
  exact Rsc.foldAll_eq r.fresh { r with fresh := [] }

section
variable {s : State} {p : List Byte}

theorem ownReportSet_of_badValue (h : byteAt p 0 &&& 0x89 ≠ 0 ∨ byteAt p 1 ≠ 0) : ownReportSet s p = refuse .badValue s := by
  unfold ownReportSet
  by_cases hset : byteAt p 0 &&& 0x89 = 0
  · rw [enableSet?, if_pos hset]
    exact if_pos (h.resolve_left (not_not.mpr hset))
  · rw [enableSet?, if_neg hset]

theorem ownReportSet_of_sound {e : EnableSet} (hset : byteAt p 0 &&& 0x89 = 0) (hzero : byteAt p 1 = 0)
    (he : e = { sync := (byteAt p 0).getLsbD 1, fault := (byteAt p 0).getLsbD 2, motion := (byteAt p 0).getLsbD 4
                capture := (byteAt p 0).getLsbD 5, position := (byteAt p 0).getLsbD 6 }) :
    ownReportSet s p = carryOut .ok ([s.rsc.enable.code, 0] ++ le16 s.rsc.intervalMs)
      { s with rsc := s.rsc.takenAll.configure e (u16At p 2) s.tsu.timebase } := by
  rw [ownReportSet, enableSet?, if_pos hset, ← he]
  exact if_neg (not_not.mpr hzero)

end

/-- The RSC after REPORT_SET, field by field: an accumulator is kept for a kind that stays enabled. -/
theorem Rsc.takenAll_configure (e : EnableSet) (n : Nat) (now : Word32) (r : Rsc) : r.takenAll.configure e n now =
    { r with
      enable := e, intervalMs := n
      timer := if e.position = true ∧ n ≠ 0 then some now else none
      fresh := []
      sync := if e.sync = true ∧ r.enable.sync = true then r.sync else none
      fault := if e.fault = true ∧ r.enable.fault = true then r.takenAll.fault else ⟨false, false, false, false⟩
      motion := if e.motion = true ∧ r.enable.motion = true then r.takenAll.motion else ⟨false, false, false, false, 0⟩
      position := if e.position = true ∧ r.enable.position = true then r.position else none } := by
  have h := r.takenAll_fields
  generalize r.takenAll = q at h ⊢
  obtain ⟨fault, motion, rfl⟩ : ∃ fault motion, q = { r with fresh := [], fault := fault, motion := motion } := ⟨_, _, h⟩
  simp [Rsc.configure, FaultAcc.empty, MotionAcc.empty]

/-- Settles O51. REPORT_SET folds the events of the RSC first, so the accumulators it keeps hold them. -/
theorem reportRequestsConfigureAndGrant : Obligations.ReportRequestsConfigureAndGrant := by
  refine fun s r rest => ⟨fun ho => ?set, fun ho => ?grant⟩
  case set =>
    obtain ⟨t, hexec, hrefused, hdone⟩ := State.executeKind_answers ownReportSet ho
    refine ⟨t, hexec, fun h => hrefused .badValue (ownReportSet_of_badValue h), fun e hset hzero he => ?_⟩
    have hcarried := hdone { s with rsc := s.rsc.takenAll.configure e (u16At r.payload 2) s.tsu.timebase } .ok _ rfl
      (ownReportSet_of_sound hset hzero he)
    rw [Rsc.takenAll_configure] at hcarried
    exact hcarried
  case grant =>
    obtain ⟨t, hexec, hrefused, hdone⟩ := State.executeKind_answers ownReportGrant ho
    refine ⟨t, hexec, fun h => hrefused .range (if_pos h), fun h => ?_⟩
    exact hdone { s with rsc := { s.rsc with credit := grantCredit s.rsc.credit (u8At r.payload 0) } } .ok _ rfl
      (if_neg (Nat.not_lt.mpr h))

end Sys2Proof.Machine
end

section
/-! SUPPORT. SPEED_SET (R55). -/

namespace Sys2Proof.Machine

section
variable {s : State} {p : List Byte}

theorem ownSpeedSet_of_range (h : u16At p 2 = 0 ∨ 16777215 < u32At p 4) : ownSpeedSet s p = refuse .range s := if_pos h

theorem ownSpeedSet_of_badValue (hrange : ¬(u16At p 2 = 0 ∨ 16777215 < u32At p 4))
    (h : ¬(u8At p 0 = 1 ∨ u8At p 0 = 2 ∨ u8At p 0 = 4 ∨ u8At p 0 = 8) ∨ byteAt p 1 ≠ 0) :
    ownSpeedSet s p = refuse .badValue s := (if_neg hrange).trans (if_pos h)

theorem ownSpeedSet_of_sound (hrange : ¬(u16At p 2 = 0 ∨ 16777215 < u32At p 4))
    (hdepth : u8At p 0 = 1 ∨ u8At p 0 = 2 ∨ u8At p 0 = 4 ∨ u8At p 0 = 8) (hzero : byteAt p 1 = 0) :
    ownSpeedSet s p = carryOut .ok [] (s.setSpeed (u8At p 0) (u16At p 2) (u32At p 4)) :=
  (if_neg hrange).trans (if_neg (not_or.mpr ⟨not_not.mpr hdepth, not_not.mpr hzero⟩))

end

/-- The settings act at once: the estimates are formed anew, and a stall time already over is entered (R55). -/
theorem State.setSpeed_eq (depth stallMs limit : Nat) (s : State) : s.setSpeed depth stallMs limit =
    let t : Tsu := s.tsu.reform depth stallMs limit
    let u : State := { s with tsu := t, rsc := s.rsc.addMotions (overspeedEvents s.tsu.overspeed t.overspeed) }
    if t.stallExpired then u.enterStall else u := rfl

theorem State.setSpeed_takeRequest (depth stallMs limit : Nat) (rest : List Request) (s : State) :
    (s.takeRequest rest).setSpeed depth stallMs limit = (s.setSpeed depth stallMs limit).takeRequest rest := by
  simp only [State.setSpeed_eq]
  by_cases h : (s.tsu.reform depth stallMs limit).stallExpired = true
  · rw [if_pos h]
    exact if_pos h
  · rw [if_neg h]
    exact if_neg h

theorem overspeedEvents_off (b : Bool) : overspeedEvents b false = if b = true then [.overspeedLeft] else [] := by
  cases b <;> rfl

/-- The OVERSPEED flag that a stall leaves: the test is made again where the presented speed changes, and 0 is within every
limit (R50, R53). -/
theorem Tsu.stall_eq (t : Tsu) : t.stall =
    { t with
      history := [], estimate := 0, presented := 0, stalled := true
      overspeed := if t.presented = 0 then t.overspeed else false } := by
  unfold Tsu.stall Tsu.present
  by_cases h : t.presented = 0
  · simp [h]
  · have hzero : (0 : Int) ≠ t.presented := fun e => h e.symm
    simp [h, hzero, Tsu.testOverspeed, Tsu.overspeedNext]

/-- The MOTION event of a stall that clears OVERSPEED (R50, R54). -/
theorem Tsu.stall_overspeedEvents (t : Tsu) : overspeedEvents t.overspeed t.stall.overspeed =
    if t.overspeed = true ∧ t.presented ≠ 0 then [.overspeedLeft] else [] := by
  rw [Tsu.stall_eq]
  by_cases h : t.presented = 0
  · cases hover : t.overspeed <;> simp [h, overspeedEvents]
  · simp [h, overspeedEvents_off]

/-- The stall time is over at once where the newest step is that old (R50, R55). -/
theorem Tsu.reform_stallExpired (depth stallMs limit : Nat) (t : Tsu) :
    (t.reform depth stallMs limit).stallExpired = true ↔
      t.stalled = false ∧ ∃ newest older, t.history = newest :: older
        ∧ stallMs * 10000 ≤ (t.timebase - newest.time).toNat := by
  have h : (t.reform depth stallMs limit).stallExpired
      = (!t.stalled && !t.history.isEmpty && decide (stallMs * 10000 ≤ t.sinceStep)) := rfl
  rw [h]
  cases hhistory : t.history with
  | nil => simp
  | cons newest older => simp [Tsu.sinceStep, hhistory, elapsed]

/-- Settles O43. The TSU that the statement writes out is `Tsu.reform`; whether a stall follows is read off its newest
step. -/
theorem speedSetActsAtOnce : Obligations.SpeedSetActsAtOnce := by
  intro s r rest t1 t2 t3 ho h1 h2 h3
  obtain rfl : t3 = s.tsu.reform (u8At r.payload 0) (u16At r.payload 2) (u32At r.payload 4) := by
    subst h1 h2 h3
    rfl
  obtain ⟨t, hexec, hrefused, hdone⟩ := State.executeKind_answers ownSpeedSet ho
  refine ⟨t, hexec, fun h => hrefused .range (ownSpeedSet_of_range h), fun hstall hlimit => ?_⟩
  have hrange : ¬(u16At r.payload 2 = 0 ∨ 16777215 < u32At r.payload 4) := by omega
  refine ⟨fun h => hrefused .badValue (ownSpeedSet_of_badValue hrange (h.imp_left (by omega))), fun hdepth hzero => ?_⟩
  have hcarried := hdone (s.setSpeed (u8At r.payload 0) (u16At r.payload 2) (u32At r.payload 4)) .ok [] (by simp)
    ((ownSpeedSet_of_sound hrange hdepth hzero).trans (congrArg (carryOut .ok []) (State.setSpeed_takeRequest _ _ _ _ _)))
  rw [State.setSpeed_eq] at hcarried
  dsimp only at hcarried
  refine ⟨fun newest older hrunning hhistory hover => ?_, fun hquiet => ?_⟩
  · have hexpired := (Tsu.reform_stallExpired (u8At r.payload 0) (u16At r.payload 2) (u32At r.payload 4) s.tsu).mpr
      ⟨hrunning, newest, older, hhistory, hover⟩
    rw [if_pos hexpired, State.enterStall] at hcarried
    dsimp only at hcarried
    rw [Tsu.stall_overspeedEvents, Tsu.stall_eq] at hcarried
    exact hcarried
  · have hquiet : ¬(s.tsu.reform (u8At r.payload 0) (u16At r.payload 2) (u32At r.payload 4)).stallExpired = true := by
      rw [Tsu.reform_stallExpired]
      rintro ⟨hrunning, newest, older, hhistory, hover⟩
      obtain h | h | ⟨newest', older', h, hyoung⟩ := hquiet
      · exact Bool.false_ne_true (hrunning.symm.trans h)
      · exact List.cons_ne_nil _ _ (hhistory.symm.trans h)
      · cases hhistory.symm.trans h
        omega
    rw [if_neg hquiet] at hcarried
    exact hcarried

end Sys2Proof.Machine
end

section
/-! SUPPORT. WINDOW_ADD (R63, R64, R67 to R72). -/

namespace Sys2Proof.Machine

section
variable {s : State} {p : List Byte} {i : Fin 8} {w : Window}

theorem ownWindowAdd_of_range (h : 7 < u8At p 0 ∨ s.pcu.axis.cpr ≤ u16At p 2 ∨ s.pcu.axis.cpr ≤ u16At p 4) :
    ownWindowAdd s p = refuse .range s := by
  by_cases htrack : 7 < u8At p 0
  · rw [ownWindowAdd, trackAt_of_lt htrack]
  · have hi : u8At p 0 = (⟨u8At p 0, Nat.lt_succ_of_le (Nat.not_lt.mp htrack)⟩ : Fin 8).val := rfl
    rw [ownWindowAdd, trackAt_of_eq hi]
    exact if_pos (h.resolve_left htrack)

section
variable (hi : u8At p 0 = i.val) (hon : u16At p 2 < s.pcu.axis.cpr) (hoff : u16At p 4 < s.pcu.axis.cpr)
include hi hon hoff

theorem ownWindowAdd_of_badValue (h : 2 < u8At p 1 ∨ u16At p 2 = u16At p 4) : ownWindowAdd s p = refuse .badValue s := by
  have hrange : ¬(s.pcu.axis.cpr ≤ u16At p 2 ∨ s.pcu.axis.cpr ≤ u16At p 4) := by omega
  rw [ownWindowAdd, trackAt_of_eq hi]
  dsimp only
  rw [if_neg hrange]
  split
  case h_1 => rfl
  case h_2 d hd =>
    obtain h | h := h
    · exact absurd ((winDir?_of_lt h).symm.trans hd) (by simp)
    · exact if_pos h

variable (hdir : winDir? (byteAt p 1) = some w.dir) (hwon : w.on = u16At p 2) (hwoff : w.off = u16At p 4)
  (hne : w.on ≠ w.off)
include hdir hwon hwoff hne

/-- A window that the fields spell, past the checks of the fields: SHADOW's lock, a window in the way, and the two bounds
are looked at in that order (R70). -/
theorem ownWindowAdd_of_fields : ownWindowAdd s p =
    if s.shadowLocked then refuse .locked s
    else match (s.cts.shadow.tracks.get i).windows.find? fun u => u.covers w.on || w.covers u.on with
      | some u => carryOut .overlap (le16 u.on) s
      | none =>
        if 16 ≤ (s.cts.shadow.tracks.get i).windows.length then refuse .trackFull s
        else if 64 ≤ s.cts.shadow.pool then refuse .poolFull s
        else carryOut .ok
          (le8 (windowIndex w.on (s.cts.shadow.tracks.get i).windows) ++ le8 ((s.cts.shadow.tracks.get i).windows.length + 1)
            ++ le8 (s.cts.shadow.pool + 1))
          (s.addWindow i w) := by
  have hrange : ¬(s.pcu.axis.cpr ≤ u16At p 2 ∨ s.pcu.axis.cpr ≤ u16At p 4) := by omega
  obtain ⟨on, off, dir⟩ := w
  subst hwon hwoff
  have hswap : (fun u => Window.overlaps { on := u16At p 2, off := u16At p 4, dir := dir } u)
      = fun u : Window => u.covers (u16At p 2) || Window.covers { on := u16At p 2, off := u16At p 4, dir := dir } u.on := by
    funext u
    exact Window.overlaps_comm _ u
  rw [ownWindowAdd, trackAt_of_eq hi]
  dsimp only
  rw [if_neg hrange, hdir]
  dsimp only
  rw [if_neg hne, hswap] <;> rfl

end

end

/-- In a sorted list the first window in the way has the lowest key of those in the way (R72). -/
theorem find?_lowest {ws : List Window} {pred : Window → Bool} (hsorted : ws.Pairwise fun a b => a.on < b.on) {u : Window}
    (hu : u ∈ ws) (hin : pred u = true) (hlowest : ∀ x ∈ ws, pred x = true → u.on ≤ x.on) :
    ∃ v, ws.find? pred = some v ∧ v.on = u.on := by
  cases hfind : ws.find? pred with
  | none => exact absurd hin (List.find?_eq_none.mp hfind u hu)
  | some v =>
    refine ⟨v, rfl, ?_⟩
    obtain ⟨hv, front, back, rfl, hfront⟩ := List.find?_eq_some_iff_append.mp hfind
    have hle : u.on ≤ v.on := hlowest v (by simp) hv
    obtain hmem | hmem := List.mem_append.mp hu
    · exact absurd hin (by simpa using hfront u hmem)
    · obtain rfl | hmem := List.mem_cons.mp hmem
      · rfl
      · have hlt := (List.pairwise_cons.mp (List.pairwise_append.mp hsorted).2.1).1 u hmem
        omega

theorem windowIndex_of_split {on : Nat} {below above : List Window} (hbelow : ∀ u ∈ below, u.on < on)
    (habove : ∀ u ∈ above, on < u.on) : windowIndex on (below ++ above) = below.length := by
  have hlow : below.countP (fun x => decide (x.on < on)) = below.length :=
    List.countP_eq_length.mpr fun u hu => by simpa using hbelow u hu
  have hhigh : above.countP (fun x => decide (x.on < on)) = 0 :=
    List.countP_eq_zero.mpr fun u hu => by simpa using (habove u hu).le
  rw [windowIndex, List.countP_append, hlow, hhigh, Nat.add_zero]

/-- Settles O44. The place in the sorted list is the split around the new key, which no window shares that does not overlap. -/
theorem windowAddInsertsIntoShadow : Obligations.WindowAddInsertsIntoShadow := by
  intro s r rest ho
  obtain ⟨t, hexec, hrefused, hdone⟩ := State.executeKind_answers ownWindowAdd ho
  refine ⟨t, hexec, fun h => hrefused .range (ownWindowAdd_of_range h), ?_⟩
  rintro i tab hi rfl hon hoff
  refine ⟨fun h => hrefused .badValue (ownWindowAdd_of_badValue hi hon hoff h), fun w hdir hwon hwoff hne => ?_⟩
  have howner := ownWindowAdd_of_fields (s := s.takeRequest rest) hi hon hoff hdir hwon hwoff hne
  refine ⟨fun hc => hrefused .locked (howner.trans (if_pos (State.shadowLocked_of_ne_none hc))), fun hc => ?_⟩
  replace howner := howner.trans (if_neg (by simp [State.shadowLocked_of_none (s := s.takeRequest rest) hc]))
  have hoverlap : ∀ u : Window,
      (s.cts.shadow.tracks.get i).windows.find? (fun u => u.covers w.on || w.covers u.on) = some u →
      carriedOut s s t r rest 0x17 (le16 u.on) := by
    intro u hfind
    have hfind : ((s.takeRequest rest).cts.shadow.tracks.get i).windows.find? (fun u => u.covers w.on || w.covers u.on)
      = some u := hfind
    rw [hfind] at howner
    exact hdone s .overlap _ rfl howner
  refine ⟨hoverlap, fun u hu hin hsorted hlowest => ?_, fun hfree => ?_⟩
  · obtain ⟨v, hfind, hv⟩ := find?_lowest (pred := fun u => u.covers w.on || w.covers u.on) hsorted hu
      (by simpa using hin) (fun x hx hin => hlowest x hx (by simpa using hin))
    exact hv ▸ hoverlap v hfind
  · have hnone : ((s.takeRequest rest).cts.shadow.tracks.get i).windows.find? (fun u => u.covers w.on || w.covers u.on)
        = none := List.find?_eq_none.mpr fun u hu => by simp [hfree u hu]
    rw [hnone] at howner
    dsimp only at howner
    refine ⟨fun hfull => hrefused .trackFull (howner.trans (if_pos hfull)), fun hfits hfull => ?_, fun hfits hpool => ?_⟩
    · exact hrefused .poolFull (howner.trans ((if_neg (Nat.not_le.mpr hfits)).trans (if_pos hfull)))
    · replace howner := howner.trans ((if_neg (Nat.not_le.mpr hfits)).trans (if_neg (Nat.not_le.mpr hpool)))
      by_cases hsorted : (s.cts.shadow.tracks.get i).windows.Pairwise fun a b => a.on < b.on
      · obtain ⟨below, above, hsplit, hbelow, habove, hinsert⟩ := insertWindow_split (w := w) hsorted fun u hu =>
          Window.on_ne_of_not_overlaps (by simp [Window.overlaps, hfree u hu])
        refine ⟨below, above, fun _ => ⟨hsplit, hbelow, habove⟩, fun _ => ?_⟩
        have hcarried := hdone (s.addWindow i w) .ok _ rfl howner
        have hindex : windowIndex w.on (s.cts.shadow.tracks.get i).windows = below.length :=
          hsplit ▸ windowIndex_of_split hbelow habove
        have hindex : windowIndex w.on ((s.takeRequest rest).cts.shadow.tracks.get i).windows = below.length := hindex
        rw [hindex, State.addWindow] at hcarried
        rw [hinsert] at hcarried
        exact hcarried
      · exact ⟨[], [], fun h => absurd h hsorted, fun h => absurd h hsorted⟩

end Sys2Proof.Machine
end

section
/-! SUPPORT. The requests that read (R20, R40, R57, R78, R79, R101, R160, R185, R186): each answers with the values held at
its execution. -/

namespace Sys2Proof.Machine

/-! ## TRACK_LIST, BANK_INFO and TRACK_STATUS (R78, R79, R101) -/

section
variable {s : State} {p : List Byte} {i : Fin 8}

theorem ownTrackList_of_range (h : 7 < u8At p 1) : ownTrackList s p = refuse .range s := by
  rw [ownTrackList, trackAt_of_lt h]

theorem ownTrackList_of_badValue (hi : u8At p 1 = i.val) (h : 1 < u8At p 0) : ownTrackList s p = refuse .badValue s := by
  rw [ownTrackList, trackAt_of_eq hi]
  dsimp only
  rw [yesNo?_of_lt h]

theorem ownTrackList_of_sound (hi : u8At p 1 = i.val) (h : u8At p 0 ≤ 1) :
    ownTrackList s p = carryOut .ok (s.trackListBody (decide (u8At p 0 = 1)) i) s := by
  rw [ownTrackList, trackAt_of_eq hi]
  dsimp only
  rw [yesNo?_of_le h]
  rfl

theorem le8_of_u8At {n : Nat} (h : u8At p 1 = n) : le8 n = [byteAt p 1] := by
  subst h
  simp [le8, u8At]

/-- The fields of TRACK_LIST, whose first two are those of the request. -/
theorem State.trackListBody_eq (hi : u8At p 1 = i.val) (h : u8At p 0 ≤ 1) (s : State) :
    s.trackListBody (decide (u8At p 0 = 1)) i =
      let tab := (if u8At p 0 = 1 then s.cts.shadow else s.cts.active).tracks.get i
      [byteAt p 0, byteAt p 1, bit s.cts.dirty] ++ le8 tab.windows.length ++ word16 s.cts.generation ++ le16 tab.leadUs
        ++ le16 tab.hysteresis ++ (tab.windows.map Window.bytes).flatten := by
  have hbank : bit (decide (u8At p 0 = 1)) = byteAt p 0 := bit_of_le (b := byteAt p 0) h
  rw [State.trackListBody, hbank, le8_of_u8At hi]
  by_cases h1 : u8At p 0 = 1 <;> simp [h1]

theorem ownTrackStatus_of_range (h : 7 < u8At p 0) : ownTrackStatus s p = refuse .range s := by
  rw [ownTrackStatus, trackAt_of_lt h]

theorem ownTrackStatus_of_track (hi : u8At p 0 = i.val) :
    ownTrackStatus s p = carryOut .ok (s.evaluate.trackBody i) s := by
  rw [ownTrackStatus, trackAt_of_eq hi]
  rfl

end

theorem Bsc.infoBytes_eq (b : Bsc) : b.infoBytes = match b.commit with
    | some { ticket := k, policy := .atPosition p } => [k, 0x01] ++ le16 p
    | some { ticket := k, policy := .atIndex } => [k, 0x02, 0x00, 0x00]
    | none => [0x00, 0x00, 0x00, 0x00] := by
  obtain ⟨commit, ticket⟩ := b
  rcases commit with _ | ⟨k, _ | _⟩ <;> rfl

/-- The fields of TRACK_STATUS, with zeroes for what is absent. -/
theorem State.trackBody_eq (i : Fin 8) (s : State) : s.trackBody i =
    let tr := s.tev.tracks.get i
    let tab := s.cts.active.tracks.get i
    [bit tr.level, bit tr.pin, (trackCause s.evalInputs tr).code, bit tr.evaluated, bit (rawLevel s.evalInputs tab),
        (currentWindow s.evalInputs tab).elim 0xFF (BitVec.ofNat 8), tr.mode.code, tr.safe.code, tr.polarity.code,
        bit tr.stallInhibit, bit tr.held,
        flagByte [leadClipped s.evalInputs tab, tr.memory.isSome, tr.inhibited, tr.lastSwitch.isSome, false,
          decide ((tr.memory.map (·.dir)) = some .rev)]]
      ++ le16 (effectivePosition s.evalInputs tab) ++ le16 (leadCounts s.evalInputs tab)
      ++ le16 (tr.memory.elim 0 (·.position)) ++ word16 s.cts.generation ++ word32 tr.switches
      ++ word32 (tr.lastSwitch.getD 0) := by
  unfold State.trackBody
  dsimp only
  generalize s.tev.tracks.get i = tr
  generalize s.cts.active.tracks.get i = tab
  cases hwindow : currentWindow s.evalInputs tab <;> cases hmemory : tr.memory <;> cases hswitch : tr.lastSwitch <;>
    simp [le8, Track.flags, hmemory, hswitch, word32]

/-- Settles O37. TRACK_STATUS is answered on the state that has caught up, from the evaluation that its own execution
makes. -/
theorem readsOfBanksAndTracks : Obligations.ReadsOfBanksAndTracks := by
  refine fun s r rest => ⟨fun ho => ?trackList, fun ho => ?bankInfo, ?trackStatus⟩
  case trackList =>
    obtain ⟨t, hexec, hrefused, hdone⟩ := State.executeKind_answers ownTrackList ho
    refine ⟨t, hexec, fun h => hrefused .range (ownTrackList_of_range h), fun htrack h => ?_, ?_⟩
    · have hi : u8At r.payload 1 = (⟨u8At r.payload 1, Nat.lt_succ_of_le htrack⟩ : Fin 8).val := rfl
      exact hrefused .badValue (ownTrackList_of_badValue hi h)
    · rintro i tab hi h rfl
      have hcarried := hdone s .ok _ rfl (ownTrackList_of_sound hi h)
      rw [State.trackListBody_eq hi h] at hcarried
      exact hcarried
  case bankInfo =>
    obtain ⟨t, hexec, -, hdone⟩ := State.executeKind_answers ownBankInfo ho
    refine ⟨t, hexec, ?_⟩
    have hcarried := hdone s .ok _ rfl rfl
    rw [State.bankBody, Bsc.infoBytes_eq] at hcarried
    simp only [Bank.countBytes, List.append_assoc] at hcarried ⊢
    exact hcarried
  case trackStatus =>
    rintro ho v rfl
    obtain ⟨t, hexec, hrefused, hdone⟩ := State.executeAfterStep_answers ownTrackStatus ho
    refine ⟨t, hexec, fun h => hrefused .range (ownTrackStatus_of_range h), ?_⟩
    rintro i tr tab hi rfl rfl
    have hcarried := hdone s.catchUp .ok _ rfl (ownTrackStatus_of_track hi)
    rw [State.trackBody_eq] at hcarried
    exact hcarried

/-! ## IDENTIFY, STATUS, AXIS_GET, REPORT_STATUS, SYNC_STATUS and SPEED_GET -/

theorem RefRecord.bytes_eq (k : RefRecord) : k.bytes =
    [k.source.code, flagByte [k.index.isSome, k.lastD.isSome]] ++ le8 k.consec ++ [0x00] ++ le16 k.refValue
      ++ le16 (k.index.elim 0 (·.pos)) ++ s16 (k.lastD.getD 0) ++ word32 k.lockedAt
      ++ word32 (k.index.elim 0 (·.last.rev)) ++ le16 (k.index.elim 0 (·.last.angle)) := by
  cases hindex : k.index <;> cases hlast : k.lastD <;>
    simp [RefRecord.bytes, RefRecord.present, hindex, hlast, s16, word32, le16, le32]

/-- The test of R47 on the history held. -/
theorem Tsu.decaying_iff (t : Tsu) : t.decaying = true ↔ 2 ≤ t.used ∧ ∃ newest older, t.history = newest :: older
    ∧ t.span < (t.timebase - newest.time).toNat * (t.used - 1) := by
  rw [Tsu.decaying, Bool.and_eq_true, decide_eq_true_eq, decide_eq_true_eq]
  refine and_congr_right fun hused => ?_
  cases hhistory : t.history with
  | nil => simp [Tsu.used, hhistory] at hused
  | cons newest older => simp [Tsu.sinceStep, hhistory, elapsed]

theorem Tsu.lastStepAt_eq (t : Tsu) : t.lastStepAt = t.history.head?.elim 0 (·.time) := by
  unfold Tsu.lastStepAt
  cases t.history <;> rfl

theorem State.speedDirection_of_some {s : State} {d : Dir} (h : s.tsu.lastDir = some d) : s.speedDirection = d.code := by
  rw [State.speedDirection, h]

/-- Settles O36. Each owner answers with its fields and no effect; SPEED_GET's byte for an absent direction is free. -/
theorem readsOfDeviceAxisReferenceAndSpeed : Obligations.ReadsOfDeviceAxisReferenceAndSpeed := by
  refine ⟨fun s r rest => ⟨fun ho => ?identify, ?status, ?axisGet, ?reportStatus⟩,
    fun s r rest => ⟨?syncStatus, RefRecord.bytes_eq, ?speedGet⟩⟩
  case identify =>
    obtain ⟨t, hexec, -, hdone⟩ := State.executeKind_answers ownIdentify ho
    exact ⟨t, hexec, hdone s .ok _ rfl rfl⟩
  case status =>
    rintro ho v rfl
    obtain ⟨t, hexec, -, hdone⟩ := State.executeAfterStep_answers ownStatus ho
    exact ⟨t, hexec, hdone s.catchUp .ok _ rfl rfl⟩
  case axisGet =>
    rintro ho v rfl
    obtain ⟨t, hexec, -, hdone⟩ := State.executeAfterStep_answers ownAxisGet ho
    exact ⟨t, hexec, hdone s.catchUp .ok _ rfl rfl⟩
  case reportStatus =>
    rintro ho v rfl
    obtain ⟨t, hexec, -, hdone⟩ := State.executeKind_answers ownReportStatus ho
    exact ⟨t, hexec, hdone s.takeReports .ok _ rfl rfl⟩
  case syncStatus =>
    rintro ho v rfl
    obtain ⟨t, hexec, -, hdone⟩ := State.executeAfterStep_answers ownSyncStatus ho
    exact ⟨t, hexec, hdone s.catchUp .ok _ rfl rfl⟩
  case speedGet =>
    rintro ho v rfl
    obtain ⟨t, hexec, -, hdone⟩ := State.executeAfterStep_answers ownSpeedGet ho
    refine ⟨t, s.catchUp.tsu.used, s.catchUp.tsu.span, s.catchUp.speedDirection, s.catchUp.tsu.decaying, hexec, rfl, rfl,
      fun d hd => State.speedDirection_of_some hd, Tsu.decaying_iff _, ?_⟩
    have hcarried := hdone { s.catchUp with free := s.catchUp.free + 1 } .ok _ rfl rfl
    rw [← Tsu.lastStepAt_eq]
    refine hcarried.congr rfl rfl rfl rfl rfl rfl rfl rfl rfl rfl rfl ⟨rfl, rfl, rfl, rfl, rfl, rfl, rfl, rfl, id⟩

end Sys2Proof.Machine
end

section
/-! SUPPORT. The TSU's arithmetic (R43 to R47, R50, R51, R53), and the rows of the field that meet nothing else of their
sample (R3, R122, R125, R157). -/

namespace Sys2Proof.Machine

/-! ## A row that takes an event that is due -/

theorem live_of_due {p : State → Bool} {f : State → State} {s : State} (hhigh : s.nrstLow = false) (hdue : p s = true) :
    live (fun s => if p s then f s else s) s = .next (f s) := by
  rw [live_of_high hhigh, if_pos hdue]

theorem live_of_notDue {p : State → Bool} {f : State → State} {s : State} (hhigh : s.nrstLow = false)
    (hdue : p s = false) : live (fun s => if p s then f s else s) s = .next s := by
  rw [live_of_high hhigh, if_neg (Bool.eq_false_iff.mp hdue)]

/-! ## Settling, holdoff and the position timer (R3, R122, R125, R157) -/

theorem State.settlingDue_of_zero {s : State} (hopen : s.sample.inSample = true) (h : s.qdu.settling = some 0) :
    s.settlingDue = true := by
  simp [State.settlingDue, hopen, h]

theorem State.latchSettlingDue_of_zero {s : State} {n : Fin 4} (hopen : s.sample.inSample = true)
    (h : (s.lcu.latches.get n).settling = some 0) : s.latchSettlingDue n = true := by
  simp [State.latchSettlingDue, hopen, h]

theorem State.holdoffDue_of_over {s : State} {n : Fin 4} {since : Word32} (hopen : s.sample.inSample = true)
    (h : (s.lcu.latches.get n).holdoff = some since)
    (hover : (s.lcu.latches.get n).holdoffUs * 10 ≤ (s.tsu.timebase - since).toNat) : s.holdoffDue n = true := by
  simp [State.holdoffDue, Latch.holdoffOver, Latch.holdoffRunning, hopen, h, elapsed, Nat.not_lt.mpr hover,
    -BitVec.toNat_sub]

theorem State.timerDue_of_expired {s : State} {since : Word32} (hopen : s.sample.inSample = true)
    (htimer : s.rsc.timer = some since) (henabled : s.rsc.enable.position = true) (hinterval : s.rsc.intervalMs ≠ 0)
    (hover : s.rsc.intervalMs * 10000 ≤ (s.tsu.timebase - since).toNat) (hstep : s.stepDue = none)
    (hstall : s.stallDue = false) (hdecay : s.decayDue = false) : s.timerDue = true := by
  simp [State.timerDue, State.timerExpired, hopen, htimer, henabled, hinterval, elapsed, hover, hstep, hstall, hdecay,
    -BitVec.toNat_sub]

theorem State.viewAt_zero (s : State) :
    s.viewAt 0 = { pos := s.pcu.pos, sync := s.rft.sync.state, generation := s.cts.generation } := by
  unfold State.viewAt
  split <;> rfl

/-- Settles O11. Each event is due as the statement says, and its row takes it. -/
theorem settlingsHoldoffsAndThePositionTimerEnd : Obligations.SettlingsHoldoffsAndThePositionTimerEnd := by
  refine ⟨⟨fun s hhigh hopen h => ?_, fun s n hhigh hopen h => ?_, fun s n since hhigh hopen h hover => ?_⟩,
    fun s view since hhigh hopen htimer henabled hinterval hover hstep hstall hdecay => ⟨s.viewAt_zero, ?_⟩⟩
  · exact live_of_due (p := State.settlingDue) (f := fun s => s.takeSettlingEnd.settle) hhigh
      (State.settlingDue_of_zero hopen h)
  · exact live_of_due (p := State.latchSettlingDue n) (f := fun s => (s.takeLatchSettlingEnd n).settle) hhigh
      (State.latchSettlingDue_of_zero hopen h)
  · exact live_of_due (p := State.holdoffDue n) (f := fun s => (s.takeHoldoffEnd n).settle) hhigh
      (State.holdoffDue_of_over hopen h hover)
  · exact live_of_due (p := State.timerDue) (f := fun s => (s.takeTimer view).settle) hhigh
      (State.timerDue_of_expired hopen htimer henabled hinterval hover hstep hstall hdecay)

/-! ## The speed of a step (R43 to R46, R51, R53) -/

theorem Tsu.present_eq (v : Int) (t : Tsu) : t.present v =
    { t with
      presented := v
      overspeed :=
        if v = t.presented then t.overspeed
        else if t.overspeedLimit = 0 then false
        else if t.overspeed = false then decide (t.overspeedLimit < v.natAbs)
        else decide (¬v.natAbs ≤ t.overspeedLimit - t.overspeedLimit / 16) } := by
  unfold Tsu.present
  by_cases h : v = t.presented
  · subst h
    simp
  · cases t.overspeed <;> simp [h, Tsu.testOverspeed, Tsu.overspeedNext]

/-- The TSU after a step, before its speed is presented (R44, R45, R51). -/
def Tsu.appended (d : Dir) (t : Tsu) : Tsu :=
  { t with
    history := ({ time := t.timebase, dir := d } :: (if t.lastDir = some d.opposite then [] else t.history)).take 9
    lastDir := some d, stalled := false }

theorem Tsu.step_eq (d : Dir) (t : Tsu) : t.step d =
    Tsu.present (t.appended d).countEstimate { t.appended d with estimate := (t.appended d).countEstimate } := by
  unfold Tsu.step Tsu.appended Tsu.reverses
  by_cases h : t.lastDir = some d.opposite <;> simp [h]

/-- The count estimate from a history whose newest entry has direction `d` (R46). -/
theorem Tsu.countEstimate_of_cons {t : Tsu} {newest : StepTime} {older : List StepTime} (h : t.history = newest :: older) :
    t.countEstimate = if t.used < 2 then 0 else signed newest.dir ((t.used - 1) * 10000000 / t.span) := by
  rw [Tsu.countEstimate, h]

theorem elapsed_eq (since now : Word32) : elapsed since now = (now.toNat + 4294967296 - since.toNat) % 4294967296 := by
  have := since.isLt
  rw [elapsed, BitVec.toNat_sub]
  omega

/-- Settles O14. A step appends its entry, and presents the count estimate of what is then held. -/
theorem stepFormsTheSpeed : Obligations.StepFormsTheSpeed := by
  refine ⟨fun t d => ?step, ⟨elapsed_eq, fun e => ⟨rfl, rfl⟩, fun newer older rest => rfl⟩, fun t v => Tsu.present_eq v t⟩
  have hestimate := Tsu.countEstimate_of_cons (t := t.appended d) (newest := { time := t.timebase, dir := d }) rfl
  rw [Tsu.step_eq, Tsu.present_eq]
  refine ⟨(t.appended d).used, (t.appended d).span, rfl, rfl, rfl, rfl, rfl, rfl, fun h => ?_, ?_, ?_, rfl, rfl, rfl⟩
  · exact hestimate.trans (if_pos h)
  · rintro h rfl
    exact hestimate.trans (if_neg (Nat.not_lt.mpr h))
  · rintro h rfl
    exact hestimate.trans (if_neg (Nat.not_lt.mpr h))

/-! ## Stall and decay (R47, R50, R53, R54) -/

theorem overspeedEvents_eq (before after : Bool) : overspeedEvents before after =
    (if before = false ∧ after = true then [.overspeedEntered] else [])
      ++ (if before = true ∧ after = false then [.overspeedLeft] else []) := by
  cases before <;> cases after <;> rfl

/-- The presented speed that the elapsed time `e` since the newest step allows (R47). -/
theorem Tsu.decayed_eq {t : Tsu} {e : Nat}
    (he : ∀ newest older, t.history = newest :: older → e = (t.timebase - newest.time).toNat) : t.decayed =
      if t.used < 2 then 0
      else if t.span < e * (t.used - 1) then t.estimate.sign * (min t.estimate.natAbs (10000000 / e) : Nat)
      else t.estimate := by
  unfold Tsu.decayed Tsu.decaying
  by_cases hused : t.used < 2
  · rw [if_pos hused, if_pos hused]
  · cases hhistory : t.history with
    | nil => exact absurd (by simp [Tsu.used, hhistory]) hused
    | cons newest older =>
      have hsince : t.sinceStep = e := by simp [Tsu.sinceStep, hhistory, he newest older hhistory, elapsed]
      simp [hused, hsince, Nat.not_lt.mp hused]

/-- Settles O25. The events are due as the statement says; what they present is the speed of a stall, or of the decay. -/
theorem stallExpiryAndDecayLowerTheSpeed : Obligations.StallExpiryAndDecayLowerTheSpeed := by
  refine ⟨fun s newest older hhigh hopen hrunning hhistory hover => ?stall,
    fun s k e span v hhigh hopen hstep hk hspan he hv hlower => ?decay⟩
  case stall =>
    have hdue : s.stallDue = true := by
      simp [State.stallDue, Tsu.stallExpired, hopen, hrunning, hhistory, Tsu.sinceStep, elapsed, hover,
        -BitVec.toNat_sub]
    have hexec := live_of_due (p := State.stallDue) (f := fun s => s.enterStall.noteMove.settle) hhigh hdue
    rw [State.enterStall, Tsu.stall_overspeedEvents, Tsu.stall_eq] at hexec
    exact hexec
  case decay =>
    obtain rfl : v = s.tsu.decayed := by
      subst hk hspan
      rw [hv, Tsu.decayed_eq he]
      rfl
    have hdue : s.decayDue = true := by simpa [State.decayDue, hopen, hstep] using hlower
    have hexec := live_of_due (p := State.decayDue) (f := fun s => s.decay.noteMove.settle) hhigh hdue
    rw [State.decay, overspeedEvents_eq] at hexec
    exact hexec

end Sys2Proof.Machine
end

section
/-! SUPPORT. Decoding the pair and the index, and one sample of every input (R1, R3 to R7, R9, R42, R122). -/

namespace Sys2Proof.Machine

/-! ## The tables of R4 to R7 -/

theorem PairChange.stepDir_of_same (axis : AxisConfig) (p : Pair) : PairChange.stepDir axis { old := p, new := p } = none := by
  simp [PairChange.stepDir]

theorem PairChange.stepDir_of_error {axis : AxisConfig} {c : PairChange} (h : c.isError = true) : c.stepDir axis = none := by
  simp [PairChange.stepDir, h]

theorem PairChange.stepDir_inverted (axis : AxisConfig) (c : PairChange) :
    PairChange.stepDir { axis with invert := true } c
      = (PairChange.stepDir { axis with invert := false } c).map Dir.opposite := by
  unfold PairChange.stepDir
  split <;> simp_all

theorem PairChange.isError_iff (old new : Pair) :
    PairChange.isError { old := old, new := new } = true ↔ old.a ≠ new.a ∧ old.b ≠ new.b := by
  simp [PairChange.isError]

theorem State.indexFormed_iff {s : State} {rise : Bool} (hopen : s.sample.inSample = true) (hz : s.sample.z = some rise) :
    s.indexFormed = true ↔ (rise = true ↔ s.indexDir = .fwd) := by
  rw [State.indexFormed, hz]
  cases rise <;> simp [hopen]

/-- Settles O12. The tables are read off for each mode; the direction that index forming uses is that of the step of the
sample, where there is one. -/
theorem pairChangesAndIndexEdgesDecodeByTheTables : Obligations.PairChangesAndIndexEdgesDecodeByTheTables := by
  refine ⟨⟨?tables, PairChange.stepDir_inverted, PairChange.isError_iff, ?events, ?due⟩, ?index⟩
  case tables =>
    rintro ⟨cpr, mode, invert, len, enabled⟩ rfl
    refine ⟨?_, ?_, ?_, PairChange.stepDir_of_same _, fun p => PairChange.stepDir_of_error ?_⟩
    · rintro rfl
      exact ⟨rfl, rfl, rfl, rfl, rfl, rfl, rfl, rfl⟩
    · rintro rfl
      exact ⟨rfl, rfl, rfl, rfl, rfl, rfl, rfl, rfl⟩
    · rintro rfl
      exact ⟨rfl, rfl, rfl, rfl, rfl, rfl, rfl, rfl⟩
    · simp [PairChange.isError]
  case events =>
    refine fun axis c => ⟨fun h => if_pos h, fun d hd => ?_, fun h hnone => ?_⟩
    · have herror : ¬c.isError = true := fun h => by simp [PairChange.stepDir_of_error h] at hd
      rw [PairChange.event, if_neg herror, hd]
      rfl
    · rw [PairChange.event, if_neg (by simp [h]), hnone]
      rfl
  case due =>
    refine fun s hopen => ⟨fun d h => ?_, fun h => ?_, fun h => ?_⟩ <;> simp [State.stepDue, State.quadDue, hopen, h]
  case index =>
    refine fun s rise hopen hz => ⟨fun hstep => ?_, fun d hstep => ?_, ?_⟩
    · rw [State.indexFormed_iff hopen hz, State.indexDir, hstep]
      rfl
    · rw [State.indexFormed_iff hopen hz, State.indexDir, hstep]
      rfl
    · simp [State.indexDue, and_assoc]

/-! ## One sample (R1, R3, R4, R7, R42, R122) -/

theorem Qdu.sample_of_settling {q : Qdu} {n : Nat} (len : Nat) (lv : Levels) (h : q.settling = some n) :
    (q.sample len lv).settling = some (n - 1) ∧ (q.sample len lv).ref = q.ref ∧ (q.sample len lv).zRef = q.zRef := by
  simp [Qdu.sample, h]

theorem Qdu.sample_of_settled {q : Qdu} (len : Nat) (lv : Levels) (h : q.settling = none) :
    (q.sample len lv).settling = none
      ∧ (q.sample len lv).ref = some { a := (q.sample len lv).a.level, b := (q.sample len lv).b.level }
      ∧ (q.sample len lv).zRef = some (q.sample len lv).z.level := by
  simp [Qdu.sample, h]

theorem Qdu.sample_quadErrors (len : Nat) (lv : Levels) (q : Qdu) : (q.sample len lv).quadErrors = q.quadErrors := by
  unfold Qdu.sample
  split <;> rfl

theorem Qdu.changes_of_settling {before after : Qdu} {n : Nat} (h : before.settling = some n) :
    before.pairChange after = none ∧ ∀ enabled, before.zChange enabled after = none := by
  simp [Qdu.pairChange, Qdu.zChange, h]

theorem Qdu.pairChange_of_refs {before after : Qdu} {old new : Pair} (h : before.settling = none)
    (hold : before.ref = some old) (hnew : after.ref = some new) :
    before.pairChange after = if old = new then none else some { old := old, new := new } := by
  simp [Qdu.pairChange, h, hold, hnew]

theorem Qdu.zChange_of_refs {before after : Qdu} {old new : Bool} (enabled : Bool) (h : before.settling = none)
    (hold : before.zRef = some old) (hnew : after.zRef = some new) :
    before.zChange enabled after = if enabled = true ∧ old ≠ new then some new else none := by
  simp [Qdu.zChange, h, hold, hnew]

theorem Latch.edgeAt_eq (level : Bool) (l : Latch) : l.edgeAt level =
    if l.settling = none ∧ (l.sample level).filter.level ≠ l.filter.level then
      some (if (l.sample level).filter.level then .rise else .fall)
    else none := by
  unfold Latch.edgeAt
  cases hsettling : l.settling with
  | none =>
    by_cases h : (l.filter.update l.filterLen level).level = l.filter.level
    · simp [Latch.sample, h]
    · simp only [Latch.sample, h, ne_eq, not_false_eq_true, and_self, if_true, if_false]
      exact (apply_ite some _ _ _).symm
  | some n => simp

theorem State.closeSample_closed (s : State) : s.closeSample.sample.inSample = false := by
  unfold State.closeSample
  split
  · rfl
  · simp_all

theorem State.closeSample_of_closed {s : State} (h : s.sample.inSample = false) : s.closeSample = s :=
  if_neg (by simp [h])

/-- Settles O9. The state named `u` is the sample before it is settled. -/
theorem sampleReadsEveryInput : Obligations.SampleReadsEveryInput := by
  rintro before s lv hhigh rfl
  refine ⟨State.closeSample_of_closed, before.closeSample_closed, before.closeSample.sampleInputs lv, exec_sample lv hhigh, ?_⟩
  generalize before.closeSample = s
  refine ⟨rfl, s.qdu.sample_a _ _, s.qdu.sample_b _ _, s.qdu.sample_z _ _, Qdu.sample_quadErrors _ _ _, fun n hn => ?settling,
    fun hsettled => ?settled, fun n => ?latches, rfl, rfl, rfl, rfl, rfl, rfl, rfl, rfl, rfl, rfl, rfl, rfl, rfl, rfl, rfl,
    ⟨_, rfl⟩, rfl, rfl⟩
  case settling =>
    obtain ⟨hcount, href, hzRef⟩ := Qdu.sample_of_settling s.pcu.axis.filterLen lv hn
    obtain ⟨hpair, hz⟩ := Qdu.changes_of_settling (after := s.qdu.sample s.pcu.axis.filterLen lv) hn
    exact ⟨hcount, href, hzRef, by simp [State.sampleInputs, hpair], by simp [State.sampleInputs, hz]⟩
  case settled =>
    obtain ⟨hnone, href, hzRef⟩ := Qdu.sample_of_settled s.pcu.axis.filterLen lv hsettled
    refine ⟨hnone, href, hzRef, fun p hp => ?_, fun z hz => ?_⟩
    · show (s.qdu.pairChange _).bind _ = _
      rw [Qdu.pairChange_of_refs hsettled hp href, apply_ite (Option.bind · _)]
      rfl
    · exact Qdu.zChange_of_refs _ hsettled hz hzRef
  case latches =>
    have hlatch : (s.sampleInputs lv).lcu.latches.get n = (s.lcu.latches.get n).sample (lv.lt.get n) := Quad.get_zip _ _ _ n
    refine ⟨hlatch, ?_⟩
    rw [hlatch, ← Latch.edgeAt_eq]
    exact Quad.get_zip _ _ _ n

end Sys2Proof.Machine
end

section
/-! SUPPORT. Lead, effective position, current window and hysteresis (R61 to R64, R84 to R89). -/

namespace Sys2Proof.Machine

/-! ## The current window (R61 to R64, R86) -/

theorem Window.covers_iff (w : Window) (a : Nat) :
    w.covers a = true ↔ if w.on < w.off then w.on ≤ a ∧ a < w.off else w.on ≤ a ∨ a < w.off := by
  unfold Window.covers
  split <;> simp

theorem Window.admits_iff (w : Window) (d : Dir) :
    w.admits d = true ↔ w.dir = .both ∨ (w.dir = .fwd ∧ d = .fwd) ∨ (w.dir = .rev ∧ d = .rev) := by
  cases hdir : w.dir <;> cases d <;> simp [Window.admits, hdir]

/-- Of two windows that cover an angle, the one entered later is entered inside the other (R61, R63). -/
theorem Window.overlaps_of_covers {u w : Window} {a : Nat} (hu : u.covers a = true) (hw : w.covers a = true) :
    u.overlaps w = true := by
  rw [Window.covers_iff] at hu hw
  rw [Window.overlaps, Bool.or_eq_true, Window.covers_iff, Window.covers_iff]
  split_ifs at * <;> omega

/-- The window covers the effective position and admits the direction (R86). -/
def Window.applies (x : EvalInputs) (tab : TrackTable) (w : Window) : Prop :=
  (if w.on < w.off then w.on ≤ effectivePosition x tab ∧ effectivePosition x tab < w.off
    else w.on ≤ effectivePosition x tab ∨ effectivePosition x tab < w.off)
  ∧ (w.dir = .both ∨ (w.dir = .fwd ∧ x.dir = .fwd) ∨ (w.dir = .rev ∧ x.dir = .rev))

theorem Window.applies_iff (x : EvalInputs) (tab : TrackTable) (w : Window) :
    (w.covers (effectivePosition x tab) && w.admits x.dir) = true ↔ w.applies x tab := by
  rw [Bool.and_eq_true, Window.covers_iff, Window.admits_iff, Window.applies]

theorem rawLevel_iff (x : EvalInputs) (tab : TrackTable) :
    rawLevel x tab = true ↔ ∃ w ∈ tab.windows, w.applies x tab := by
  simp only [rawLevel, List.any_eq_true, Window.applies_iff]

theorem currentWindow_eq_none_iff (x : EvalInputs) (tab : TrackTable) :
    currentWindow x tab = none ↔ rawLevel x tab = false := by
  rw [currentWindow, List.findIdx?_eq_none_iff, rawLevel, List.any_eq_false]
  simp only [Bool.not_eq_true]

theorem currentWindow_applies {x : EvalInputs} {tab : TrackTable} {j : Nat} (h : currentWindow x tab = some j) :
    ∃ w, tab.windows[j]? = some w ∧ w.applies x tab := by
  obtain ⟨hj, hw, -⟩ := List.findIdx?_eq_some_iff_getElem.mp h
  exact ⟨tab.windows[j], List.getElem?_eq_getElem hj, (Window.applies_iff ..).mp hw⟩

/-- Without overlaps, a window that applies is the current one: an earlier one that applied would overlap it. -/
theorem currentWindow_of_applies {x : EvalInputs} {tab : TrackTable} {j : Nat} {w : Window}
    (hdisjoint : tab.windows.Pairwise fun u w => u.overlaps w = false) (hw : tab.windows[j]? = some w)
    (happlies : w.applies x tab) : currentWindow x tab = some j := by
  obtain ⟨hj, rfl⟩ := List.getElem?_eq_some_iff.mp hw
  refine List.findIdx?_eq_some_iff_getElem.mpr ⟨hj, (Window.applies_iff ..).mpr happlies, fun i hij hi => ?_⟩
  have hcovers := (Bool.and_eq_true_iff.mp hi).1
  have hcovers' := (Bool.and_eq_true_iff.mp ((Window.applies_iff ..).mpr happlies)).1
  have hapart := List.pairwise_iff_getElem.mp hdisjoint i j (by omega) hj hij
  rw [Window.overlaps_of_covers hcovers hcovers'] at hapart
  exact absurd hapart (by decide)

/-! ## The effective position (R85) -/

theorem leadCounts_le (x : EvalInputs) (tab : TrackTable) : leadCounts x tab ≤ x.cpr := by
  unfold leadCounts
  omega

theorem effectivePosition_of_fwd {x : EvalInputs} {tab : TrackTable} (h : x.dir = .fwd) :
    (effectivePosition x tab : Int) = ((x.angle : Int) + leadCounts x tab) % x.cpr := by
  simp [effectivePosition, h]

theorem effectivePosition_of_rev {x : EvalInputs} {tab : TrackTable} (h : x.dir = .rev) :
    (effectivePosition x tab : Int) = ((x.angle : Int) - leadCounts x tab) % x.cpr := by
  have hle := leadCounts_le x tab
  calc (effectivePosition x tab : Int)
      = ((x.angle + x.cpr - leadCounts x tab : Nat) : Int) % x.cpr := by simp [effectivePosition, h]
    _ = ((x.angle : Int) - leadCounts x tab + x.cpr) % x.cpr := by congr 1; omega
    _ = _ := Int.add_emod_right _ _

/-! ## Hysteresis (R87, R88) -/

section
variable {x : EvalInputs} {tab : TrackTable} {t : Track}

theorem Track.hysteresis_of_eq (h : rawLevel x tab = t.evaluated) : t.hysteresis x tab = t :=
  if_neg fun hboth => hboth.1 h

theorem Track.hysteresis_of_takesEffect (h : rawLevel x tab ≠ t.evaluated) (htakes : takesEffect x tab t.memory = true) :
    t.hysteresis x tab = { t with evaluated := rawLevel x tab
                                  memory := some { position := effectivePosition x tab, dir := x.dir } } :=
  if_pos ⟨h, htakes⟩

theorem Track.hysteresis_of_held (htakes : takesEffect x tab t.memory = false) : t.hysteresis x tab = t :=
  if_neg fun hboth => by simp [htakes] at hboth

/-- An evaluation forms level and memory by its hysteresis alone. -/
theorem Track.evaluate_hysteresis (x : EvalInputs) (tab : TrackTable) (t : Track) :
    (t.evaluate x tab).evaluated = (t.hysteresis x tab).evaluated
      ∧ (t.evaluate x tab).memory = (t.hysteresis x tab).memory := ⟨rfl, rfl⟩

theorem takesEffect_iff (x : EvalInputs) (tab : TrackTable) (memory : Option Memory) :
    takesEffect x tab memory = true ↔ memory = none ∨ ∃ m, memory = some m ∧ (m.dir = x.dir
      ∨ effectiveHysteresis x tab ≤ circDist x.cpr m.position (effectivePosition x tab)) := by
  cases memory <;> simp [takesEffect, eq_comm (a := x.dir)]

end

/-- Settles O26. Lead and effective position are arithmetic; raw level and current window are the windows that apply;
hysteresis is by the three cases of R88. -/
theorem evaluationTestsTheWindowsWithHysteresis : Obligations.EvaluationTestsTheWindowsWithHysteresis := by
  refine ⟨?tests, ?hysteresis, fun t i => ⟨rfl, Tev.clearMemories_get t i⟩⟩
  case tests =>
    rintro s i tab _ _ - hcpr - rfl rfl
    exact ⟨rfl, decide_eq_true_iff, effectivePosition_below _ _ hcpr, effectivePosition_of_fwd (x := s.evalInputs),
      effectivePosition_of_rev (x := s.evalInputs),
      rawLevel_iff _ _, currentWindow_eq_none_iff _ _, fun j => currentWindow_applies,
      fun hdisjoint j w hw hcovers hadmits => currentWindow_of_applies hdisjoint hw ⟨hcovers, hadmits⟩⟩
  case hysteresis =>
    rintro s i _ old _ _ _ rfl rfl rfl rfl rfl
    obtain ⟨hevaluated, hmemory⟩ :=
      (s.tev.tracks.get i).evaluate_hysteresis s.evalInputs (s.cts.active.tracks.get i)
    rw [s.evaluate_track, hevaluated, hmemory]
    refine ⟨fun h => ?same, fun h htakes => ?taken, fun m h hm hdir hnear => ?held⟩
    case same => rw [Track.hysteresis_of_eq h]; exact ⟨rfl, rfl⟩
    case taken =>
      rw [Track.hysteresis_of_takesEffect h ((takesEffect_iff ..).mpr htakes)]
      exact ⟨rfl, rfl⟩
    case held =>
      rw [Track.hysteresis_of_held]
      · exact ⟨rfl, rfl⟩
      · refine Bool.eq_false_iff.mpr fun htakes => ?_
        obtain hnone | ⟨m', hm', hsame | hfar⟩ := (takesEffect_iff ..).mp htakes
        · simp [hm] at hnone
        all_goals obtain rfl : m = m' := Option.some.inj (hm.symm.trans hm')
        · exact hdir hsame
        · exact absurd hnear (Nat.not_lt.mpr hfar)

end Sys2Proof.Machine
end

section
/-! SUPPORT. What the RSC folds, and when (R23, R141, R142, R148 to R153, log 29, log 31). -/

namespace Sys2Proof.Machine

/-! ## Events of one kind of report -/

theorem ReportKind.takes_fault_iff (kind : ReportKind) (f : FaultKind) : kind.takes (.fault f) = true ↔ kind = .fault := by
  cases kind <;> simp [ReportKind.takes]

theorem ReportKind.takes_motion_iff (kind : ReportKind) (m : MotionKind) :
    kind.takes (.motion m) = true ↔ kind = .motion := by
  cases kind <;> simp [ReportKind.takes]

theorem Rsc.nothingFor_eq_false_iff (kind : ReportKind) (r : Rsc) : r.nothingFor kind = false ↔
    (kind = .fault → r.fault ≠ ⟨false, false, false, false⟩)
      ∧ (kind = .motion → r.motion ≠ ⟨false, false, false, false, 0⟩) := by
  cases kind with
  | fault => exact decide_eq_false_iff_not.trans ⟨fun h => ⟨fun _ => h, nofun⟩, fun h => h.1 rfl⟩
  | motion => exact decide_eq_false_iff_not.trans ⟨fun h => ⟨nofun, fun _ => h⟩, fun h => h.2 rfl⟩
  | hello | sync | done | capture | position => simp [Rsc.nothingFor]

theorem Rsc.fold_nothingFor {kind : ReportKind} {e : RscEvent} (r : Rsc) (h : kind.takes e = false) :
    (r.fold e).nothingFor kind = r.nothingFor kind := by
  cases e with
  | fault f =>
    cases kind with
    | fault => simp [ReportKind.takes] at h
    | hello | sync | done | motion | capture | position => rfl
  | motion m =>
    cases kind with
    | motion => simp [ReportKind.takes] at h
    | hello | sync | done | fault | capture | position => rfl

/-- Events of other kinds leave what a report of this kind carries. -/
theorem Rsc.foldAll_nothingFor {kind : ReportKind} (es : List RscEvent) (r : Rsc)
    (h : ∀ e ∈ es, kind.takes e = false) : (es.foldl Rsc.fold r).nothingFor kind = r.nothingFor kind := by
  induction es generalizing r with
  | nil => rfl
  | cons e es ih =>
    obtain ⟨he, hes⟩ := List.forall_mem_cons.mp h
    rw [List.foldl_cons, ih _ hes]
    exact Rsc.fold_nothingFor r he

/-! ## Early and late events -/

/-- The events that are not late and those that are, together, are all that have come. -/
theorem Rsc.picked_perm (own : RscEvent → Bool) (mask : Nat) (r : Rsc) :
    (r.picked own false mask ++ r.picked own true mask).Perm r.fresh := by
  have hsplit := (List.filter_append_perm (fun x : Bool × RscEvent => x.1 == false) (markLate own mask r.fresh)).map (·.2)
  rw [List.map_append, markLate_snd] at hsplit
  simpa [Rsc.picked] using hsplit

/-- A late event is one of those that may be late. -/
theorem markLate_own {own : RscEvent → Bool} {mask : Nat} {es : List RscEvent} {e : RscEvent}
    (h : (true, e) ∈ markLate own mask es) : own e = true := by
  induction es generalizing mask with
  | nil => simp [markLate] at h
  | cons x es ih =>
    obtain h | h := List.mem_cons.mp h
    · obtain ⟨hlate, rfl⟩ := Prod.mk.inj h
      exact (Bool.and_eq_true_iff.mp hlate.symm).1
    · exact ih h

theorem Rsc.picked_own {own : RscEvent → Bool} {mask : Nat} {r : Rsc} {e : RscEvent} (h : e ∈ r.picked own true mask) :
    own e = true := by
  obtain ⟨⟨late, e'⟩, hmem, rfl⟩ := List.mem_map.mp h
  obtain ⟨hmem, hlate⟩ := List.mem_filter.mp hmem
  obtain rfl : late = true := by simpa using hlate
  exact markLate_own hmem

/-- With every bit set, each event that may be late is late. -/
theorem markLate_ones (own : RscEvent → Bool) {n : Nat} {es : List RscEvent} (h : es.length ≤ n) :
    markLate own (2 ^ n - 1) es = es.map fun e => (own e, e) := by
  induction es generalizing n with
  | nil => rfl
  | cons e es ih =>
    obtain ⟨n, rfl⟩ : ∃ m, n = m + 1 := ⟨n - 1, by simp at h; omega⟩
    have hpos : 0 < 2 ^ n := Nat.two_pow_pos n
    have hodd : (2 ^ (n + 1) - 1) % 2 = 1 := by rw [Nat.pow_succ]; omega
    have hhalf : (2 ^ (n + 1) - 1) / 2 = 2 ^ n - 1 := by rw [Nat.pow_succ]; omega
    rw [markLate, hodd, hhalf, ih (by simpa using h)]
    simp

theorem Rsc.picked_ones (own : RscEvent → Bool) (wanted : Bool) (r : Rsc) :
    r.picked own wanted (2 ^ r.fresh.length - 1) = r.fresh.filter fun e => own e == wanted := by
  rw [Rsc.picked, markLate_ones own le_rfl]
  simp [List.filter_map, Function.comp_def]

theorem markLate_zero (own : RscEvent → Bool) (es : List RscEvent) :
    markLate own 0 es = es.map fun e => (false, e) := by
  induction es with
  | nil => rfl
  | cons e es ih => simp [markLate, ih]

/-- With no bit set, no event is late. -/
theorem Rsc.taken_zero (own : RscEvent → Bool) (r : Rsc) : r.taken own 0 = r.takenAll := by
  simp only [Rsc.takenAll, Rsc.taken, Rsc.picked, markLate_zero]

/-! ## What a report finds -/

theorem Rsc.beforeReport_zero (kind : ReportKind) (r : Rsc) : r.beforeReport kind 0 = r.takenAll := by
  rw [Rsc.beforeReport, Rsc.taken_zero, ite_self]

theorem Rsc.beforeReport_of_something {kind : ReportKind} {mask : Nat} {r : Rsc}
    (h : (r.taken kind.takes mask).nothingFor kind = false) : r.beforeReport kind mask = r.taken kind.takes mask :=
  if_neg (by simp [h])

/-- Events are folded but for late ones of the report's own kind, and those only where the report carries something. -/
theorem Rsc.beforeReport_split (r : Rsc) (kind : ReportKind) (mask : Nat) : ∃ early late : List RscEvent, ∃ r' : Rsc,
    r' = early.foldl Rsc.fold { r with fresh := late } ∧ r.beforeReport kind mask = r'
      ∧ (early ++ late).Perm r.fresh ∧ early.Sublist r.fresh ∧ late.Sublist r.fresh
      ∧ (∀ e ∈ late, kind.takes e = true)
      ∧ (late ≠ [] → (kind = .fault → r'.fault ≠ ⟨false, false, false, false⟩)
        ∧ (kind = .motion → r'.motion ≠ ⟨false, false, false, false, 0⟩)) := by
  cases hnothing : (r.taken kind.takes mask).nothingFor kind with
  | true =>
    have hall : r.beforeReport kind mask = r.takenAll := if_pos hnothing
    exact ⟨r.fresh, [], _, rfl, hall.trans r.takenAll_eq, by simp, List.Sublist.refl _, List.nil_sublist _, by simp,
      fun h => absurd rfl h⟩
  | false =>
    exact ⟨r.picked kind.takes false mask, r.picked kind.takes true mask, _, rfl,
      Rsc.beforeReport_of_something hnothing, r.picked_perm _ _, r.picked_sublist _ _ _, r.picked_sublist _ _ _,
      fun e he => Rsc.picked_own he, fun _ => (Rsc.nothingFor_eq_false_iff kind _).mp hnothing⟩

/-- Where the report carries something without them, all events of its kind may come after it. -/
theorem Rsc.exists_allLate {r : Rsc} {kind : ReportKind} (h : r.nothingFor kind = false) :
    ∃ mask, (r.beforeReport kind mask).fresh = r.fresh.filter kind.takes := by
  refine ⟨2 ^ r.fresh.length - 1, ?_⟩
  have hsomething : (r.taken kind.takes (2 ^ r.fresh.length - 1)).nothingFor kind = false := by
    rw [Rsc.taken, Rsc.foldAll_nothingFor]
    · exact h
    · intro e he
      rw [Rsc.picked_ones] at he
      simpa using (List.mem_filter.mp he).2
  rw [Rsc.beforeReport_of_something hsomething, Rsc.taken, Rsc.foldAll_fresh, Rsc.picked_ones]
  simp

/-! ## The order of completions -/

/-- Every order of a list has a code. -/
theorem exists_shuffle {α : Type} {xs ys : List α} (h : ys.Perm xs) : ∃ code, shuffle code xs = ys := by
  induction xs generalizing ys with
  | nil => exact ⟨0, h.eq_nil.symm⟩
  | cons x xs ih =>
    obtain ⟨i, hi, rfl⟩ := List.getElem_of_mem (h.symm.subset List.mem_cons_self)
    have hrest : (ys.eraseIdx i).Perm xs :=
      List.Perm.cons_inv ((List.getElem_cons_eraseIdx_perm hi).trans h)
    obtain ⟨code, hcode⟩ := ih hrest
    have hlt : i < xs.length + 1 := by simpa [h.length_eq] using hi
    refine ⟨code * (xs.length + 1) + i, ?_⟩
    have hplace : (code * (xs.length + 1) + i) % (xs.length + 1) = i := by
      rw [Nat.mul_comm, Nat.mul_add_mod, Nat.mod_eq_of_lt hlt]
    have hnext : (code * (xs.length + 1) + i) / (xs.length + 1) = code := by
      rw [Nat.mul_comm, Nat.mul_add_div (by omega), Nat.div_eq_of_lt hlt, Nat.add_zero]
    rw [shuffle, hplace, hnext, hcode]
    exact List.insertIdx_eraseIdx_getElem hi

/-- A counter of one byte stops at 255. -/
theorem satInc_byte (x : Byte) : satInc x = if x = 255 then 255 else x + 1 := by
  by_cases h : x = 255
  · subst h
    rfl
  · exact (if_neg h).trans (if_neg h).symm

theorem Rsc.fold_reversal (r : Rsc) : r.fold (.motion .reversal) = { r with motion := { r.motion with
    reversals := if r.motion.reversals = 255 then 255 else r.motion.reversals + 1 } } := by
  rw [← satInc_byte]
  rfl

/-- Settles O28. The folds are one case each; what a report finds is the split into early and late events, and the order of
the completions is a shuffle of those that are recent. -/
theorem theReportSchedulerFoldsEvents : Obligations.TheReportSchedulerFoldsEvents := by
  intro r state cause now k ks c
  refine ⟨fun h => ?_, fun h hnone => ?_, fun a h hsome => ?_, fun h => ?_, fun h => ?_, fun h => ?_, fun h => ?_,
    rfl, rfl, rfl, rfl, rfl, rfl, rfl, rfl, r.fold_reversal, r.takenAll_eq, r.beforeReport_split, fun kind => ⟨?_, ?_,
      r.beforeReport_zero kind, fun hfault hmotion => ?_⟩, rfl, fun code => ⟨_, shuffle_perm _ _, rfl⟩, fun last h => ?_⟩
  · simp [Rsc.syncEvent, h]
  · simp [Rsc.syncEvent, h, hnone, syncFold]
  · simp [Rsc.syncEvent, h, hsome, syncFold, satInc_byte]
  · simp [Rsc.addFault, Rsc.receive, RscEvent.enabledIn, h]
  · simp [Rsc.addFault, Rsc.receive, RscEvent.enabledIn, h]
  · simp [Rsc.addMotions, Rsc.receive, List.filter_map, Function.comp_def, RscEvent.enabledIn, h]
  · simp [Rsc.addMotions, Rsc.receive, List.filter_map, Function.comp_def, RscEvent.enabledIn, h]
  · simp only [kind.takes_fault_iff]
    exact ⟨fun ⟨_, h⟩ => h, fun h => ⟨.quadError, h⟩⟩
  · simp only [kind.takes_motion_iff]
    exact ⟨fun ⟨_, h⟩ => h, fun h => ⟨.reversal, h⟩⟩
  · exact Rsc.exists_allLate ((Rsc.nothingFor_eq_false_iff kind r).mpr ⟨hfault, hmotion⟩)
  · obtain ⟨code, hcode⟩ := exists_shuffle h
    exact ⟨code, by rw [Rsc.ordered, hcode]⟩

end Sys2Proof.Machine
end

section
/-! SUPPORT. The hand-over of a report, and the end of a transmission (R141 to R157, R179, R180, R182). -/

namespace Sys2Proof.Machine

/-! ## The report that goes (R141, R142) -/

theorem State.kindSendable_iff (s : State) (k : ReportKind) :
    s.kindSendable k = true ↔ s.kindPending k = true ∧ (k = .hello ∨ 1 ≤ s.rsc.credit) := by
  simp [State.kindSendable]

/-- The kinds of a higher priority are those of a lower code. -/
theorem reportPriority_split (k : ReportKind) :
    ∃ higher lower, reportPriority = higher ++ k :: lower ∧ ∀ j ∈ higher, j.code.toNat < k.code.toNat := by
  refine ⟨reportPriority.take (k.code.toNat - 0x70), reportPriority.drop (k.code.toNat - 0x6F), ?_⟩
  cases k <;> decide

theorem State.topSendable_of {s : State} {k : ReportKind} (h : s.kindSendable k = true)
    (hfirst : ∀ j : ReportKind, j.code.toNat < k.code.toNat → s.kindSendable j = false) : s.topSendable = some k := by
  obtain ⟨higher, lower, hsplit, hhigher⟩ := reportPriority_split k
  exact List.find?_eq_some_iff_append.mpr ⟨h, higher, lower, hsplit, fun j hj => by simp [hfirst j (hhigher j hj)]⟩

theorem State.topSendable_of_none {s : State} (h : ∀ k : ReportKind, s.kindSendable k = false) : s.topSendable = none :=
  List.find?_eq_none.mpr fun k _ => by simp [h k]

/-- What a report finds has something for it wherever all events together have. -/
theorem Rsc.beforeReport_nothingFor {k : ReportKind} (mask : Nat) {r : Rsc} (h : r.takenAll.nothingFor k = false) :
    (r.beforeReport k mask).nothingFor k = false := by
  unfold Rsc.beforeReport
  split
  case isTrue => exact h
  case isFalse hsome => exact Bool.eq_false_iff.mpr hsome

theorem State.kindPending_fault_iff (s : State) : s.kindPending .fault = !s.rsc.nothingFor .fault := by
  simp [State.kindPending, Rsc.nothingFor]

theorem State.kindPending_motion_iff (s : State) : s.kindPending .motion = !s.rsc.nothingFor .motion := by
  simp [State.kindPending, Rsc.nothingFor]

/-- A report that is sendable with every event folded stays so with late events left out. -/
theorem State.kindSendable_beforeReport {s u : State} {k : ReportKind} {mask : Nat}
    (h : s.takeReports.kindSendable k = true) (hrsc : u.rsc = s.rsc.beforeReport k mask) (hlcu : u.lcu = s.lcu) :
    u.kindSendable k = true := by
  obtain ⟨hpending, hcredit⟩ := (State.kindSendable_iff _ k).mp h
  refine (State.kindSendable_iff u k).mpr ⟨?_, by simpa [hrsc, State.takeReports] using hcredit⟩
  cases k with
  | fault =>
    rw [State.kindPending_fault_iff, Bool.not_eq_true'] at hpending ⊢
    rw [hrsc]
    exact Rsc.beforeReport_nothingFor mask hpending
  | motion =>
    rw [State.kindPending_motion_iff, Bool.not_eq_true'] at hpending ⊢
    rw [hrsc]
    exact Rsc.beforeReport_nothingFor mask hpending
  | hello | sync | done | capture | position =>
    simpa [State.kindPending, hrsc, hlcu, State.takeReports] using hpending

/-! ## The line is offered (R142, R151, R153, R180) -/

theorem State.grantLine_of_busy {s : State} (h : s.lkp.tx ≠ .free ∨ s.lkp.replies ≠ []) : s.grantLine = s :=
  if_neg fun hfree => h.elim (fun h => h hfree.1) (fun h => h hfree.2)

section
variable {s v : State} (hfree : s.lkp.tx = .free) (hreplies : s.lkp.replies = []) (hv : v = { s with rsc := s.rsc.takenAll })
include hfree hreplies hv

theorem State.grantLine_of_nothing (h : ∀ k : ReportKind, v.kindSendable k = false) : s.grantLine = s := by
  subst hv
  have htop : s.takeReports.topSendable = none := State.topSendable_of_none h
  rw [State.grantLine, if_pos ⟨hfree, hreplies⟩, htop]

theorem State.grantLine_of_first {k : ReportKind} (h : v.kindSendable k = true)
    (hfirst : ∀ j : ReportKind, j.code.toNat < k.code.toNat → v.kindSendable j = false) :
    ∃ (mask code : Nat) (u : State), u = { s with
        rsc := s.rsc.beforeReport k mask, free := s.free + 1, sample := { s.sample with views := [], reach := 0 } }
      ∧ u.kindSendable k = true
      ∧ s.grantLine = State.handOverKind k { u with rsc := if k = .done then u.rsc.ordered code else u.rsc } := by
  subst hv
  have htop : s.takeReports.topSendable = some k := State.topSendable_of h hfirst
  refine ⟨Config.lateEvents s.free, Config.completionOrder (s.free + 1), _, rfl,
    State.kindSendable_beforeReport h rfl rfl, ?_⟩
  rw [State.grantLine, if_pos ⟨hfree, hreplies⟩, htop]
  rfl

end

/-- Settles O29. The row offers the line, where the first sendable kind of the priority list goes. -/
theorem theHighestSendableReportGoes : Obligations.TheHighestSendableReportGoes := by
  intro s
  refine ⟨s.kindSendable_iff, by simp [State.kindPending, Option.isSome_iff_ne_none],
    by simp [State.kindPending, Option.isSome_iff_ne_none], decide_eq_true_iff, by simp [State.kindPending],
    decide_eq_true_iff, by simp [State.kindPending], by simp [State.kindPending, Option.isSome_iff_ne_none],
    fun hhigh hfree hreplies v hv => ⟨fun k hk hfirst => ?_, fun hnone => ?_⟩, fun hbusy => ?_⟩
  · obtain ⟨mask, code, u, hu, hsendable, hgrant⟩ := State.grantLine_of_first hfree hreplies hv hk hfirst
    exact ⟨mask, code, u, hu, hsendable, (live_of_high hhigh).trans (congrArg _ hgrant)⟩
  · exact (live_of_high hhigh).trans (congrArg _ (State.grantLine_of_nothing hfree hreplies hv hnone))
  · show live State.grantLine s = _
    rw [live, State.grantLine_of_busy hbusy, ite_self]

/-! ## The end of a transmission (R179, R180, R182) -/

theorem exec_transmitEnd_sending {s : State} {f : Reply} (hhigh : s.nrstLow = false) (h : s.lkp.tx = .sending f) :
    exec .transmitEnd s = .next (State.grantLine { s with lkp := s.lkp.endTransmission }) := by
  simp only [exec, execTransmitEnd]
  rw [live_of_high hhigh, h]

/-- Settles O33. The transmission ends, and the line is offered: to nothing before a reset, to the oldest reply, or to the
report that goes. -/
theorem transmitEndStartsTheNextFrame : Obligations.TransmitEndStartsTheNextFrame := by
  intro s f hhigh htx
  have hexec := exec_transmitEnd_sending hhigh htx
  refine ⟨fun hreset => ?reset, fun g rest hreset hreplies => ?reply, fun hreset hreplies v hv => ?report⟩
  case reset =>
    have hend : s.lkp.endTransmission = { s.lkp with tx := .resetDue } := by simp [Lkp.endTransmission, htx, hreset]
    rw [hexec, hend, State.grantLine_of_busy (.inl (by simp))]
  case reply =>
    have hend : s.lkp.endTransmission = { s.lkp with tx := .sending g, replies := rest } := by
      simp [Lkp.endTransmission, Lkp.startReply, htx, hreset, hreplies]
    rw [hexec, hend, State.grantLine_of_busy (.inl (by simp))]
  case report =>
    have hend : s.lkp.endTransmission = { s.lkp with tx := .free } := by
      simp [Lkp.endTransmission, Lkp.startReply, htx, hreset, hreplies]
    rw [hexec, hend]
    refine ⟨fun k hk hfirst => ?_, fun hnone => ?_⟩
    · obtain ⟨mask, code, u, hu, hsendable, hgrant⟩ :=
        State.grantLine_of_first (s := { s with lkp := { s.lkp with tx := .free } }) rfl hreplies hv hk hfirst
      exact ⟨mask, code, u, hu, hsendable, congrArg _ hgrant⟩
    · exact congrArg _
        (State.grantLine_of_nothing (s := { s with lkp := { s.lkp with tx := .free } }) rfl hreplies hv hnone)

/-! ## The content of a report (R143, R144, R147 to R150, R154, R156, R157) -/

theorem Completion.payload_eq (c : Completion) : c.payload =
    [c.ticket, c.op.code, c.outcome.code, flagByte [c.pos.isSome, c.generation.isSome]] ++ word32 c.time
      ++ le16 (c.pos.elim 0 (·.angle)) ++ word16 (c.generation.getD 0) ++ word32 (c.pos.elim 0 (·.rev)) := by
  unfold Completion.payload Completion.flags
  cases c.pos <;> cases c.generation <;> rfl

theorem Lcu.lostTotal_eq (c : Lcu) : c.lostTotal =
    (c.latches.get 0).lost.toNat + (c.latches.get 1).lost.toNat + (c.latches.get 2).lost.toNat
      + (c.latches.get 3).lost.toNat := by
  simp [Lcu.lostTotal, Quad.toList, Quad.get, Nat.add_assoc]

theorem Lcu.capturesLeft_eq (c : Lcu) : c.queue.length - c.reportRecords.length = (c.queue.drop 4).length := by
  simp only [Lcu.reportRecords, List.length_take, List.length_drop]
  omega

/-- Settles O30. Each kind's payload is the listed one; of the RSC the source is emptied, the counter advanced, and, but
for HELLO, a credit spent. -/
theorem handOverFormsTheReport : Obligations.HandOverFormsTheReport := by
  intro s
  refine ⟨fun cause h => ?hello, fun a h => ?sync, ?fault, fun c rest h => ?done, rfl, ?capture, fun n h => ?position⟩
  case hello =>
    simp [State.handOverKind, Rsc.handOver, State.reportPayload, State.helloPayload, h]
    rfl
  case sync =>
    simp [State.handOverKind, Rsc.handOver, State.reportPayload, State.syncPayload, h]
    rfl
  case fault =>
    rw [← Lcu.lostTotal_eq]
    rfl
  case done =>
    simp [State.handOverKind, Rsc.handOver, State.reportPayload, Completion.payload_eq, h]
    rfl
  case capture =>
    rw [← Lcu.capturesLeft_eq]
    rfl
  case position =>
    simp [State.handOverKind, Rsc.handOver, State.reportPayload, Snapshot.payload, h]
    rfl

end Sys2Proof.Machine
end

section
/-! SUPPORT. The receiver, and the admission of a frame (R162 to R173). -/

namespace Sys2Proof.Machine

/-- A counter of two bytes stops at 65535. -/
theorem satInc_word (x : Word16) : satInc x = if x = 0xFFFF then 0xFFFF else x + 1 := by
  by_cases h : x = 0xFFFF
  · subst h
    rfl
  · exact (if_neg h).trans (if_neg h).symm

/-! ## What the receiver makes of a byte (R163 to R168) -/

section
variable {k : Lkp}

theorem Lkp.receive_of_notReady (e : ByteEvent) (h : k.rxLine ≠ .ready) : k.receive e = k := if_neg h

theorem Lkp.receive_good (b : Byte) (h : k.rxLine = .ready) : k.receive (.good b) = k.rxGood b := if_pos h

theorem Lkp.rxGood_sync (h : k.rx = .hunt) : k.rxGood 0xB7 = { k with rx := .length, gapTimer := true } := by
  simp [Lkp.rxGood, h]

theorem Lkp.rxGood_noise {b : Byte} (h : k.rx = .hunt) (hb : b ≠ 0xB7) :
    k.rxGood b = { k with counters := { k.counters with noise := satInc k.counters.noise } } := by
  rw [Lkp.rxGood, h]
  exact if_neg hb

theorem Lkp.rxGood_length {b : Byte} (h : k.rx = .length) (hb : b.toNat ≤ 240) :
    k.rxGood b = { k with rx := .body b [], gapTimer := true } := by
  rw [Lkp.rxGood, h]
  exact if_pos hb

theorem Lkp.rxGood_tooLong {b : Byte} (h : k.rx = .length) (hb : 240 < b.toNat) : k.rxGood b =
    { k with rx := .hunt, gapTimer := false
             counters := { k.counters with lengthErrors := satInc k.counters.lengthErrors } } := by
  rw [Lkp.rxGood, h]
  exact if_neg (Nat.not_le.mpr hb)

theorem Lkp.rxGood_body (b : Byte) {len : Byte} {buf : List Byte} (h : k.rx = .body len buf)
    (hmore : buf.length + 1 ≠ len.toNat + 2) : k.rxGood b = { k with rx := .body len (buf ++ [b]), gapTimer := true } := by
  rw [Lkp.rxGood, h]
  exact if_neg hmore

theorem Lkp.rxGood_lastOfBody (b : Byte) {len : Byte} {buf : List Byte} (h : k.rx = .body len buf)
    (hlast : buf.length + 1 = len.toNat + 2) :
    k.rxGood b = { k with rx := .check len (buf ++ [b]) none, gapTimer := true } := by
  rw [Lkp.rxGood, h]
  exact if_pos hlast

theorem Lkp.rxGood_crcHigh (b : Byte) {len : Byte} {buf : List Byte} (h : k.rx = .check len buf none) :
    k.rxGood b = { k with rx := .check len buf (some b), gapTimer := true } := by
  rw [Lkp.rxGood, h]

theorem Lkp.rxGood_crcLow (b : Byte) {len hi : Byte} {buf : List Byte} (h : k.rx = .check len buf (some hi)) :
    k.rxGood b = k.checkCrc len buf (hi ++ b) := by
  rw [Lkp.rxGood, h]
  rfl

theorem Lkp.rxError_of_hunt (h : k.rx = .hunt) :
    k.rxError = { k with counters := { k.counters with noise := satInc k.counters.noise } } := if_pos h

theorem Lkp.rxError_inFrame (h : k.rx ≠ .hunt) : k.rxError =
    { k with rx := .hunt, gapTimer := false
             counters := { k.counters with byteErrors := satInc k.counters.byteErrors } } := if_neg h

/-- In HUNT, a byte event that is no sync byte is noise, and after a break the line must be idle (R163, R164). -/
theorem Lkp.receive_noise {e : ByteEvent} (hline : k.rxLine = .ready) (h : k.rx = .hunt) (he : e ≠ .good 0xB7) :
    k.receive e = { k with rxLine := if e = .lineBreak then .waitBitTime else .ready
                           counters := { k.counters with noise := satInc k.counters.noise } } := by
  cases e with
  | good b =>
    rw [Lkp.receive_good b hline, Lkp.rxGood_noise h fun hb => he (hb ▸ rfl), ← hline]
    rfl
  | framing => simp [Lkp.receive, hline, Lkp.rxError_of_hunt h]
  | lineBreak => simp [Lkp.receive, hline, Lkp.rxError_of_hunt h]

/-- A line error inside a frame discards it (R163, R167). -/
theorem Lkp.receive_lineError {e : LineError} (hline : k.rxLine = .ready) (h : k.rx ≠ .hunt) :
    k.receive (lineErrorEvent e) =
      { k with rx := .hunt, gapTimer := false, rxLine := if e = .lineBreak then .waitBitTime else .ready
               counters := { k.counters with byteErrors := satInc k.counters.byteErrors } } := by
  cases e <;> simp [lineErrorEvent, Lkp.receive, hline, Lkp.rxError_inFrame h]

end

section
variable {s : State}

theorem exec_rxdIdle (hhigh : s.nrstLow = false) :
    exec .rxdIdle s = .next { s with lkp := { s.lkp with rxLine := .ready } } := by
  simp only [exec, execRxdIdle]
  rw [live_of_high hhigh]

theorem exec_gapExpiry {k : Lkp} (hhigh : s.nrstLow = false) (h : s.lkp.gapExpired = k) :
    exec .gapExpiry s = .next { s with lkp := k } := by
  simp only [exec, execGapExpiry]
  rw [live_of_high hhigh, h]

/-- A byte event leaves the part with its receiver after the event. -/
theorem live_receive {e : ByteEvent} {k : Lkp} (hhigh : s.nrstLow = false) (h : s.lkp.receive e = k) :
    live (State.receive e) s = .next { s with lkp := k } := by
  rw [live_of_high hhigh, State.receive, h]

/-- A receiver that takes no start bits is left as it is. -/
theorem live_receive_of_notReady (e : ByteEvent) (h : s.lkp.rxLine ≠ .ready) : live (State.receive e) s = .next s := by
  have hkept : s.receive e = s := by rw [State.receive, Lkp.receive_of_notReady e h]
  rw [live, hkept, ite_self]

theorem live_receive_good {b : Byte} {k : Lkp} (hhigh : s.nrstLow = false) (hline : s.lkp.rxLine = .ready)
    (h : s.lkp.rxGood b = k) : live (State.receive (.good b)) s = .next { s with lkp := k } :=
  live_receive hhigh ((Lkp.receive_good b hline).trans h)

end

/-- Settles O31. Each byte is one transition of the receiver, which is all that changes. -/
theorem goodBytesAdvanceAndErrorsDiscardTheFrame : Obligations.GoodBytesAdvanceAndErrorsDiscardTheFrame := by
  simp only [Obligations.GoodBytesAdvanceAndErrorsDiscardTheFrame, ← satInc_word]
  refine ⟨fun s b hhigh => ⟨fun hline h hb => ?_, fun hline h hb => ?_, fun len buf hline h hmore => ?_,
    fun len buf hline h hlast => ?_, fun len buf hline h => ?_, fun hline => ?_, exec_rxdIdle hhigh⟩,
    fun s e hhigh hline h he => ?_, fun s b hhigh hline h hb => ?_, fun s e hhigh hline h => ?_,
    fun s hhigh h => ?_, fun s hhigh h => ?_⟩
  · subst hb
    exact live_receive_good hhigh hline (Lkp.rxGood_sync h)
  · exact live_receive_good hhigh hline (Lkp.rxGood_length h hb)
  · exact live_receive_good hhigh hline (Lkp.rxGood_body b h hmore)
  · exact live_receive_good hhigh hline (Lkp.rxGood_lastOfBody b h hlast)
  · exact live_receive_good hhigh hline (Lkp.rxGood_crcHigh b h)
  · exact ⟨live_receive_of_notReady _ hline, live_receive_of_notReady _ hline, live_receive_of_notReady _ hline,
      fun e => live_receive_of_notReady _ hline, fun e => live_receive_of_notReady _ hline⟩
  · exact live_receive hhigh (Lkp.receive_noise hline h he)
  · exact live_receive_good hhigh hline (Lkp.rxGood_tooLong h hb)
  · exact live_receive hhigh (Lkp.receive_lineError hline h)
  · exact exec_gapExpiry hhigh (if_neg h)
  · exact exec_gapExpiry hhigh (if_pos h)

/-! ## Admission (R170 to R173) -/

theorem Lkp.placeReply_framePlaced {before k : Lkp} (f : Reply) (htx : k.tx = before.tx)
    (hreplies : k.replies = before.replies) : framePlaced before (k.placeReply f) f := by
  rw [framePlaced, ← htx, ← hreplies]
  exact ⟨k.placeReply_busy f, k.placeReply_free f⟩

section
variable {k : Lkp} {r : Request}

/-- The cached reply to an earlier copy of the request (R171). -/
def Lkp.cachedFor (k : Lkp) (r : Request) : Option CacheEntry :=
  k.cache.find? fun e => decide (e.seq = r.seq ∧ e.crc = r.crc)

theorem Lkp.cachedFor_eq (k : Lkp) (r : Request) :
    (k.cache.find? fun e => decide (e.seq = r.seq) && decide (e.crc = r.crc)) = k.cachedFor r := by
  simp only [Lkp.cachedFor, Bool.decide_and]

theorem Lkp.cachedFor_of_forall_not (h : ∀ e ∈ k.cache, ¬(e.seq = r.seq ∧ e.crc = r.crc)) : k.cachedFor r = none :=
  List.find?_eq_none.mpr fun e he => by simpa using h e he

theorem Lkp.queued_iff (k : Lkp) (r : Request) :
    (k.inbound.any fun q => decide (q.seq = r.seq) && decide (q.crc = r.crc)) = true
      ↔ ∃ q ∈ k.inbound, q.seq = r.seq ∧ q.crc = r.crc := by simp

theorem Lkp.admitFrame_of_cached {e : CacheEntry} (h : k.cachedFor r = some e) : k.admitFrame r =
    if k.replies.length < 6 then
      Lkp.placeReply { frame := e.frame, resetOk := false }
        { k with counters := { k.counters with dupAnswered := satInc k.counters.dupAnswered } }
    else { k with counters := { k.counters with busyDrops := satInc k.counters.busyDrops } } := by
  rw [Lkp.admitFrame, Lkp.cachedFor_eq, h]

theorem Lkp.admitFrame_of_queued (h : k.cachedFor r = none)
    (hqueued : ∃ q ∈ k.inbound, q.seq = r.seq ∧ q.crc = r.crc) :
    k.admitFrame r = { k with counters := { k.counters with dupDropped := satInc k.counters.dupDropped } } := by
  rw [Lkp.admitFrame, Lkp.cachedFor_eq, h]
  exact if_pos ((k.queued_iff r).mpr hqueued)

theorem Lkp.admitFrame_of_new (h : k.cachedFor r = none) (hnew : ∀ q ∈ k.inbound, ¬(q.seq = r.seq ∧ q.crc = r.crc)) :
    k.admitFrame r =
      if k.inbound.length < 4 then { k with inbound := k.inbound ++ [r] }
      else if k.replies.length < 6 then
        Lkp.placeReply (busyReply r)
          { k with counters := { k.counters with busyReplies := satInc k.counters.busyReplies } }
      else { k with counters := { k.counters with busyDrops := satInc k.counters.busyDrops } } := by
  rw [Lkp.admitFrame, Lkp.cachedFor_eq, h]
  exact if_neg fun hqueued => have ⟨q, hq, heq⟩ := (k.queued_iff r).mp hqueued; hnew q hq heq

end

/-- A BUSY reply carries the status, and the kind of a request that is none (R173). -/
theorem busyReply_eq (r : Request) : busyReply r =
    { resetOk := false, frame :=
      (if (requestLength? r.kind).isSome = true then mkFrame r.seq (r.kind + 0x80) [0x10]
        else mkFrame r.seq 0xFF [0x10, r.kind]) } := by
  rw [busyReply, replyFrame, replyKind]
  split <;> rfl

/-- Settles O32. The frame is admitted from HUNT: by the cache, by the inbound queue, and by the room in both queues. -/
theorem completedFramesAreAdmitted : Obligations.CompletedFramesAreAdmitted := by
  simp only [Obligations.CompletedFramesAreAdmitted, ← satInc_word]
  intro s len hi lo buf r hhigh hline h hr
  refine ⟨s.lkp.checkCrc len buf (hi ++ lo), live_receive_good hhigh hline (Lkp.rxGood_crcLow lo h), ?_⟩
  by_cases hcrc : hi ++ lo = crc (len :: buf)
  · have hgood : s.lkp.checkCrc len buf (hi ++ lo) = s.lkp.toHunt.admitFrame r := hr ▸ if_pos hcrc
    rw [hgood]
    refine ⟨by simp [Lkp.toHunt], by simp [Lkp.toHunt], by simp [Lkp.toHunt], by simp [Lkp.toHunt],
      by simp [Lkp.toHunt, hline], by simp [Lkp.toHunt], by simp [Lkp.toHunt], by simp [Lkp.toHunt],
      fun hbad => absurd hcrc hbad, fun _ => ⟨fun e he => ?cached, fun hnone => ⟨fun hqueued => ?queued, fun hnew => ?new⟩⟩⟩
    case cached =>
      rw [Lkp.admitFrame_of_cached (k := s.lkp.toHunt) he]
      by_cases hroom : s.lkp.replies.length < 6
      · rw [if_pos (show s.lkp.toHunt.replies.length < 6 from hroom)]
        exact ⟨Lkp.placeReply_inbound .., fun _ => ⟨Lkp.placeReply_framePlaced _ rfl rfl, Lkp.placeReply_counters ..⟩,
          fun hfull => absurd hroom (Nat.not_lt.mpr hfull)⟩
      · rw [if_neg (show ¬s.lkp.toHunt.replies.length < 6 from hroom)]
        exact ⟨rfl, fun h => absurd h hroom, fun _ => ⟨rfl, rfl, rfl⟩⟩
    case queued =>
      rw [Lkp.admitFrame_of_queued (k := s.lkp.toHunt) (Lkp.cachedFor_of_forall_not hnone) hqueued]
      exact ⟨rfl, rfl, rfl, rfl⟩
    case new =>
      rw [Lkp.admitFrame_of_new (k := s.lkp.toHunt) (Lkp.cachedFor_of_forall_not hnone) hnew]
      by_cases hqueue : s.lkp.inbound.length < 4
      · rw [if_pos (show s.lkp.toHunt.inbound.length < 4 from hqueue)]
        exact ⟨fun _ => ⟨rfl, rfl, rfl, rfl⟩, fun hfull => absurd hqueue (Nat.not_lt.mpr hfull)⟩
      · rw [if_neg (show ¬s.lkp.toHunt.inbound.length < 4 from hqueue)]
        refine ⟨fun h => absurd h hqueue, fun _ => ?_⟩
        by_cases hroom : s.lkp.replies.length < 6
        · rw [if_pos (show s.lkp.toHunt.replies.length < 6 from hroom)]
          rw [← busyReply_eq]
          exact ⟨Lkp.placeReply_inbound .., fun _ => ⟨Lkp.placeReply_framePlaced _ rfl rfl, Lkp.placeReply_counters ..⟩,
            fun hfull => absurd hroom (Nat.not_lt.mpr hfull)⟩
        · rw [if_neg (show ¬s.lkp.toHunt.replies.length < 6 from hroom)]
          exact ⟨rfl, fun h => absurd h hroom, fun _ => ⟨rfl, rfl, rfl⟩⟩
  · have hbad : s.lkp.checkCrc len buf (hi ++ lo) =
        { s.lkp with rx := .hunt, gapTimer := false
                     counters := { s.lkp.counters with crcErrors := satInc s.lkp.counters.crcErrors } } := if_neg hcrc
    rw [hbad]
    exact ⟨rfl, rfl, rfl, rfl, hline, rfl, rfl, rfl, fun _ => rfl, fun hgood => absurd hgood hcrc⟩

end Sys2Proof.Machine
end

section
/-! SUPPORT. The RFT and the BSC within one event: what the RFT does with a step, a quadrature error or an index event does
not depend on what the BSC has done before it in the same event, and the BSC does no more than to end the pending commit
(R110 to R118). -/

namespace Sys2Proof.Machine

/-! ## The BSC's acts, one equation per case (R110, R111, R114, R115) -/

section
variable {x : State} {c : Commit}

theorem State.bscArrive_of_none (p : AbsPos) (h : x.bsc.commit = none) : x.bscArrive p = x := by
  rw [State.bscArrive, h]

theorem State.bscArrive_of_arrival {p : AbsPos} (h : x.bsc.commit = some c) (hp : c.policy = .atPosition p.angle) :
    x.bscArrive p = x.endSwapped c p := by
  simp [State.bscArrive, h, hp]

theorem State.bscArrive_of_other {p : AbsPos} (h : x.bsc.commit = some c) (hp : c.policy ≠ .atPosition p.angle) :
    x.bscArrive p = x := by
  obtain ⟨c', hc', hpolicy, -⟩ | ⟨-, e⟩ := x.bscArrive_cases p
  · cases h.symm.trans hc'
    exact absurd hpolicy hp
  · exact e

theorem State.bscIndex_of_none (h : x.bsc.commit = none) : x.bscIndex = x := by
  rw [State.bscIndex, h]

theorem State.bscIndex_of_atIndex (h : x.bsc.commit = some c) (hp : c.policy = .atIndex) :
    x.bscIndex = x.endSwapped c x.pcu.pos := by
  simp [State.bscIndex, h, hp]

theorem State.bscIndex_of_atPosition {q : Nat} (h : x.bsc.commit = some c) (hp : c.policy = .atPosition q) :
    x.bscIndex = x := by
  simp [State.bscIndex, h, hp]

theorem State.bscArriveKept_of_none (p : Option AbsPos) (h : x.bsc.commit = none) : x.bscArriveKept p = x := by
  cases p with
  | none => rfl
  | some p => exact State.bscArrive_of_none p h

theorem State.bscLeft_of_none (h : x.bsc.commit = none) : x.bscLeft = x := by
  have hbsc : x.bsc = { x.bsc with commit := none } := by rw [← h]
  unfold State.bscLeft
  simp only [h, ite_self]
  rw [← hbsc]

theorem State.bscLeft_of_locked (h : x.rft.sync.state = .locked) : x.bscLeft = x := by
  simp [State.bscLeft, h]

/-- A commit pending when the lock has gone ends ABANDONED (R114, R115). -/
theorem State.bscLeft_of_pending (h : x.rft.sync.state ≠ .locked) (hc : x.bsc.commit = some c) : x.bscLeft =
    { x with
      bsc := { x.bsc with commit := none }
      rsc := x.rsc.complete
        { ticket := c.ticket, op := .commit, outcome := .abandoned, time := x.tsu.timebase, pos := none
          generation := none } } := by
  simp [State.bscLeft, h, hc]

end

/-! ## The RFT's act (R22, R23, R29, R30, R36, R37) -/

/-- The RSC without its completion list. -/
def Rsc.reports (r : Rsc) : Rsc := { r with inFlight := 0, waiting := [], recent := 0 }

theorem Rsc.reports_eq_iff (r r' : Rsc) : r.reports = r'.reports ↔
    { r with inFlight := r'.inFlight, waiting := r'.waiting, recent := r'.recent } = r' := by
  cases r
  cases r'
  simp [Rsc.reports]

/-- A part of an event that replaces the RFT's state and hands something to the RSC; with `changes` it is a change of sync
state, before which the view is kept. -/
def State.rftDoes (changes : Bool) (rft : Rft) (g : Rsc → Rsc) (x : State) : State :=
  { x with rft := rft, rsc := g x.rsc, sample := if changes then x.noteView.sample else x.sample }

/-- What is handed to the RSC reaches its reports without a look at the completion list. -/
def reportsOnly (g : Rsc → Rsc) : Prop := ∀ r r' : Rsc, r.reports = r'.reports → (g r).reports = (g r').reports

theorem reportsOnly_id : reportsOnly id := fun _ _ h => h

theorem reportsOnly_of_commutes {g : Rsc → Rsc} (h : ∀ r : Rsc, (g r).reports = g r.reports) : reportsOnly g :=
  fun r r' hr => by rw [h, h, hr]

theorem reportsOnly_addFault (k : FaultKind) : reportsOnly (Rsc.addFault k) := reportsOnly_of_commutes fun _ => rfl

theorem reportsOnly_syncEvent (state : SyncState) (cause : SyncCause) (now : Word32) :
    reportsOnly (Rsc.syncEvent state cause now) := reportsOnly_of_commutes fun _ => rfl

theorem reportsOnly_complete (c : Completion) : reportsOnly (Rsc.complete c) := fun _ _ h => h

/-- What the RFT reads at a step, a quadrature error or an index event. -/
structure State.rftSame (x y : State) : Prop where
  rft : y.rft = x.rft
  pcu : y.pcu = x.pcu
  tsu : y.tsu = x.tsu
  found : y.sample.found = x.sample.found

/-- In every state in which the RFT reads the same, `f` is the same act of the RFT. -/
def State.rftActs (f : State → State) (x : State) : Prop :=
  ∃ changes rft g, reportsOnly g ∧ ∀ y, x.rftSame y → f y = y.rftDoes changes rft g

theorem State.changeSync_eq (new : Sync) (cause : SyncCause) (x : State) : x.changeSync new cause =
    x.rftDoes true { x.rft with sync := new, cause := cause } (Rsc.syncEvent new.state cause x.tsu.timebase) := rfl

theorem State.failSeek_eq (r : SeekRecord) (outcome : EndOutcome) (cause : SyncCause) (x : State) :
    x.failSeek r outcome cause = x.rftDoes true { x.rft with sync := .free, cause := cause } fun rsc =>
      (rsc.syncEvent .free cause x.tsu.timebase).complete
        { ticket := r.ticket, op := .seek, outcome := outcome, time := x.tsu.timebase, pos := none
          generation := none } := rfl

theorem State.indexError_of_below {k : FaultKind} {r : RefRecord} {x : State} (h : r.consec + 1 < x.rft.inForce.limit) :
    x.indexError k r =
      x.rftDoes false { x.rft with sync := .locked { r with consec := r.consec + 1 } } (Rsc.addFault k) :=
  if_neg (Nat.not_le.mpr h)

theorem State.indexError_of_limit {k : FaultKind} {r : RefRecord} {x : State} (hlocked : x.rft.sync.state = .locked)
    (h : x.rft.inForce.limit ≤ r.consec + 1) : x.indexError k r =
      x.rftDoes true { x.rft with sync := .lost { r with consec := r.consec + 1 }, cause := .indexErrors } fun rsc =>
        (rsc.addFault k).syncEvent .lost .indexErrors x.tsu.timebase := by
  rw [State.indexError]
  refine (if_pos h).trans ?_
  simp only [State.changeSync, State.rftDoes, State.noteView, State.viewNow, hlocked]
  rfl

/-! ### A step -/

section
variable {x : State}

/-- The travel check fails the seek at this step (R29). -/
def State.seekFails (r : SeekRecord) (x : State) : Prop :=
  r.travelLimit ≠ 0 ∧ r.travelLimit < (travel x.pcu.axis.cpr r.start x.pcu.pos).natAbs ∧ x.referenceEventDue r = false

theorem State.rftStep_of_free (h : x.rft.sync = .free) : x.rftStep = x := by
  rw [State.rftStep, h]

theorem State.rftStep_of_lost {r : RefRecord} (h : x.rft.sync = .lost r) : x.rftStep = x := by
  rw [State.rftStep, h]

theorem State.rftStep_of_fails {r : SeekRecord} (h : x.rft.sync = .seeking r) (hfails : x.seekFails r) :
    x.rftStep = x.failSeek r .failedTravel .travel := by
  rw [State.rftStep, h]
  exact if_pos hfails

theorem State.rftStep_of_seeks {r : SeekRecord} (h : x.rft.sync = .seeking r) (hseeks : ¬x.seekFails r) :
    x.rftStep = x := by
  rw [State.rftStep, h]
  exact if_neg hseeks

theorem State.rftStep_of_noIndex {r : RefRecord} (h : x.rft.sync = .locked r) (hindex : r.index = none) :
    x.rftStep = x := by
  simp [State.rftStep, h, hindex]

/-- With checking in force the index `ix` is missing at this step (R37). -/
def State.indexMissing (ix : IndexRef) (x : State) : Prop :=
  x.rft.inForce.check = true
    ∧ x.pcu.axis.cpr + x.rft.inForce.tolerance < (travel x.pcu.axis.cpr ix.last x.pcu.pos).natAbs

theorem State.rftStep_of_passes {r : RefRecord} {ix : IndexRef} (h : x.rft.sync = .locked r) (hindex : r.index = some ix)
    (hpasses : ¬x.indexMissing ix) : x.rftStep = x := by
  simp only [State.rftStep, h, hindex]
  exact if_neg hpasses

theorem State.rftStep_of_missing {r : RefRecord} {ix : IndexRef} (h : x.rft.sync = .locked r)
    (hindex : r.index = some ix) (hmissing : x.indexMissing ix) : x.rftStep =
      x.indexError .indexMissing { r with index := some (ix.miss (travel x.pcu.axis.cpr ix.last x.pcu.pos)) } := by
  simp only [State.rftStep, h, hindex]
  exact if_pos hmissing

end

/-- Index forming reads the sample and the direction. -/
theorem State.indexFormed_congr {x y : State} (hpcu : y.pcu = x.pcu) (hfound : y.sample.found = x.sample.found) :
    y.indexFormed = x.indexFormed := by
  simp only [Sample.found, Prod.mk.injEq] at hfound
  obtain ⟨hopen, hab, hz, -, -⟩ := hfound
  have hstep : y.stepDue = x.stepDue := by rw [State.stepDue, State.stepDue, hopen, hab]
  rw [State.indexFormed, State.indexFormed, State.indexDir, State.indexDir, hstep, hopen, hz, hpcu]

section
variable {x y : State} (h : x.rftSame y)
include h

theorem State.rftSame.indexFormed : y.indexFormed = x.indexFormed := State.indexFormed_congr h.pcu h.found

theorem State.rftSame.referenceEventDue (r : SeekRecord) : y.referenceEventDue r = x.referenceEventDue r := by
  have hfound := h.found
  simp only [Sample.found, Prod.mk.injEq] at hfound
  obtain ⟨hopen, -, -, -, hrefEdges⟩ := hfound
  simp only [State.referenceEventDue, h.indexFormed, hopen, hrefEdges]

theorem State.rftSame.seekFails (r : SeekRecord) : y.seekFails r ↔ x.seekFails r := by
  rw [State.seekFails, State.seekFails, h.referenceEventDue, h.pcu]

theorem State.rftSame.indexMissing (ix : IndexRef) : y.indexMissing ix ↔ x.indexMissing ix := by
  rw [State.indexMissing, State.indexMissing, h.rft, h.pcu]

end

section
variable {f f' : State → State} {x : State}

theorem State.rftActs_of_same (h : ∀ y, x.rftSame y → f y = y) : State.rftActs f x :=
  ⟨false, x.rft, id, reportsOnly_id, fun y hy => (h y hy).trans (by simp [State.rftDoes, ← hy.rft])⟩

theorem State.rftActs.congr (h : State.rftActs f' x) (heq : ∀ y, x.rftSame y → f y = f' y) : State.rftActs f x := by
  obtain ⟨changes, rft, g, hg, hdoes⟩ := h
  exact ⟨changes, rft, g, hg, fun y hy => (heq y hy).trans (hdoes y hy)⟩

theorem State.changeSync_acts (new : Sync) (cause : SyncCause) (x : State) : State.rftActs (State.changeSync new cause) x :=
  ⟨true, _, _, reportsOnly_syncEvent new.state cause x.tsu.timebase, fun y hy => by
    rw [State.changeSync_eq, hy.rft, hy.tsu]⟩

theorem State.failSeek_acts (r : SeekRecord) (outcome : EndOutcome) (cause : SyncCause) (x : State) :
    State.rftActs (State.failSeek r outcome cause) x :=
  ⟨true, _, _, fun _ _ h => reportsOnly_complete _ _ _ (reportsOnly_syncEvent .free cause x.tsu.timebase _ _ h),
    fun y hy => by rw [State.failSeek_eq, hy.rft, hy.tsu]⟩

theorem State.indexError_acts (k : FaultKind) (r : RefRecord) (hlocked : x.rft.sync.state = .locked) :
    State.rftActs (State.indexError k r) x := by
  by_cases hlimit : x.rft.inForce.limit ≤ r.consec + 1
  · exact ⟨true, _, _,
      fun _ _ h => reportsOnly_syncEvent .lost .indexErrors x.tsu.timebase _ _ (reportsOnly_addFault k _ _ h),
      fun y hy => by rw [State.indexError_of_limit (by rw [hy.rft, hlocked]) (by rwa [hy.rft]), hy.rft, hy.tsu]⟩
  · exact ⟨false, _, _, reportsOnly_addFault k, fun y hy => by
      rw [State.indexError_of_below (by rw [hy.rft]; omega), hy.rft]⟩

end

/-- A step is one act of the RFT, whatever the BSC has done before it. -/
theorem State.rftStep_acts (x : State) : State.rftActs State.rftStep x := by
  cases hsync : x.rft.sync with
  | free => exact State.rftActs_of_same fun y hy => State.rftStep_of_free (hy.rft ▸ hsync)
  | lost r => exact State.rftActs_of_same fun y hy => State.rftStep_of_lost (hy.rft ▸ hsync)
  | seeking r =>
    by_cases hfails : x.seekFails r
    · exact (x.failSeek_acts r .failedTravel .travel).congr fun y hy =>
        State.rftStep_of_fails (hy.rft ▸ hsync) ((hy.seekFails r).mpr hfails)
    · exact State.rftActs_of_same fun y hy => State.rftStep_of_seeks (hy.rft ▸ hsync) fun h => hfails ((hy.seekFails r).mp h)
  | locked r =>
    cases hindex : r.index with
    | none => exact State.rftActs_of_same fun y hy => State.rftStep_of_noIndex (hy.rft ▸ hsync) hindex
    | some ix =>
      by_cases hmissing : x.indexMissing ix
      · refine (State.indexError_acts .indexMissing
          { r with index := some (ix.miss (travel x.pcu.axis.cpr ix.last x.pcu.pos)) } (by rw [hsync]; rfl)).congr
          fun y hy => ?_
        rw [State.rftStep_of_missing (hy.rft ▸ hsync) hindex ((hy.indexMissing ix).mpr hmissing), hy.pcu]
      · exact State.rftActs_of_same fun y hy =>
          State.rftStep_of_passes (hy.rft ▸ hsync) hindex fun h => hmissing ((hy.indexMissing ix).mp h)

/-! ## What the BSC does within an event -/

/-- From `x` to `y` the BSC has acted: it may have ended the pending commit, by a swap or without; nothing but its own state,
the completion list and the views of the sample has changed otherwise. -/
structure State.bscOnly (x y : State) : Prop where
  same : x.rftSame y
  qdu : y.qdu = x.qdu
  lcu : y.lcu = x.lcu
  lkp : y.lkp = x.lkp
  moved : y.sample.moved = x.sample.moved
  nextTicket : y.bsc.nextTicket = x.bsc.nextTicket
  reports : y.rsc.reports = x.rsc.reports
  idle : x.bsc.commit = none → y.bsc = x.bsc ∧ y.rsc = x.rsc
  tracks : x.tracksAre y x.tev

theorem State.rftSame.refl (x : State) : x.rftSame x := ⟨rfl, rfl, rfl, rfl⟩

theorem State.rftSame.trans {x y z : State} (h : x.rftSame y) (h' : y.rftSame z) : x.rftSame z :=
  ⟨h'.rft.trans h.rft, h'.pcu.trans h.pcu, h'.tsu.trans h.tsu, h'.found.trans h.found⟩

theorem State.tracksAre_of_eq {x y : State} {tev : Tev} (hcts : y.cts = x.cts) (htev : y.tev = tev) :
    x.tracksAre y tev := .inl ⟨hcts, htev⟩

/-- The banks are swapped once: after a swap no commit is pending, and without one none appears. -/
theorem State.tracksAre_trans {x y z : State} {tev : Tev} (h : x.tracksAre y tev) (h' : y.tracksAre z y.tev)
    (hidle : x.bsc.commit = none → y.bsc.commit = none) (hidle' : y.bsc.commit = none → z.bsc.commit = none) :
    x.tracksAre z tev := by
  obtain ⟨hcts, htev⟩ | ⟨hpending, hended, hcts, htev⟩ := h <;>
    obtain ⟨hcts', htev'⟩ | ⟨hpending', hended', hcts', htev'⟩ := h'
  · exact .inl ⟨hcts'.trans hcts, htev'.trans htev⟩
  · exact .inr ⟨fun hnone => hpending' (hidle hnone), hended', hcts'.trans (by rw [hcts]), htev'.trans (by rw [htev])⟩
  · exact .inr ⟨hpending, hidle' hended, hcts'.trans hcts, htev'.trans htev⟩
  · exact absurd hended hpending'

namespace State.bscOnly

variable {x y z : State}

theorem refl (x : State) : x.bscOnly x :=
  ⟨.refl x, rfl, rfl, rfl, rfl, rfl, rfl, fun _ => ⟨rfl, rfl⟩, .inl ⟨rfl, rfl⟩⟩

theorem commit (h : x.bscOnly y) (hnone : x.bsc.commit = none) : y.bsc.commit = none := by
  rw [(h.idle hnone).1, hnone]

theorem trans (h : x.bscOnly y) (h' : y.bscOnly z) : x.bscOnly z where
  same := h.same.trans h'.same
  qdu := h'.qdu.trans h.qdu
  lcu := h'.lcu.trans h.lcu
  lkp := h'.lkp.trans h.lkp
  moved := h'.moved.trans h.moved
  nextTicket := h'.nextTicket.trans h.nextTicket
  reports := h'.reports.trans h.reports
  idle hnone := by
    obtain ⟨hbsc, hrsc⟩ := h.idle hnone
    obtain ⟨hbsc', hrsc'⟩ := h'.idle (h.commit hnone)
    exact ⟨hbsc'.trans hbsc, hrsc'.trans hrsc⟩
  tracks := State.tracksAre_trans h.tracks h'.tracks h.commit h'.commit

theorem endSwapped {c : Commit} (p : AbsPos) (h : x.bsc.commit = some c) : x.bscOnly (x.endSwapped c p) where
  same := ⟨rfl, rfl, rfl, rfl⟩
  qdu := rfl
  lcu := rfl
  lkp := rfl
  moved := rfl
  nextTicket := rfl
  reports := rfl
  idle hnone := by simp [h] at hnone
  tracks := .inr ⟨by simp [h], rfl, rfl, rfl⟩

theorem bscArrive (p : AbsPos) (x : State) : x.bscOnly (x.bscArrive p) := by
  obtain ⟨c, hc, -, e⟩ | ⟨-, e⟩ := x.bscArrive_cases p <;> rw [e]
  · exact .endSwapped p hc
  · exact .refl x

theorem bscIndex (x : State) : x.bscOnly x.bscIndex := by
  obtain ⟨c, hc, -, e⟩ | ⟨-, e⟩ := x.bscIndex_cases <;> rw [e]
  · exact .endSwapped x.pcu.pos hc
  · exact .refl x

theorem bscArriveKept (p : Option AbsPos) (x : State) : x.bscOnly (x.bscArriveKept p) := by
  cases p with
  | none => exact .refl x
  | some p => exact .bscArrive p x

theorem bscLeft (x : State) : x.bscOnly x.bscLeft := by
  by_cases hlocked : x.rft.sync.state = .locked
  · rw [State.bscLeft_of_locked hlocked]
    exact .refl x
  · cases hc : x.bsc.commit with
    | none =>
      rw [State.bscLeft_of_none hc]
      exact .refl x
    | some c =>
      rw [State.bscLeft_of_pending hlocked hc]
      exact ⟨⟨rfl, rfl, rfl, rfl⟩, rfl, rfl, rfl, rfl, rfl, rfl, fun hnone => by simp [hc] at hnone, .inl ⟨rfl, rfl⟩⟩

/-- The arrival kept for after the index event is the BSC's own. -/
theorem arrival (kept : Option AbsPos) (x : State) : x.bscOnly { x with sample := { x.sample with arrival := kept } } :=
  ⟨⟨rfl, rfl, rfl, rfl⟩, rfl, rfl, rfl, rfl, rfl, rfl, fun _ => ⟨rfl, rfl⟩, .inl ⟨rfl, rfl⟩⟩

/-- An act of the RFT is the same before and after an act of the BSC. -/
theorem acts {f : State → State} (h : x.bscOnly y) (hf : State.rftActs f x) : (f x).bscOnly (f y) := by
  obtain ⟨changes, rft, g, hg, hdoes⟩ := hf
  rw [hdoes x (.refl x), hdoes y h.same]
  refine ⟨⟨rfl, h.same.pcu, h.same.tsu, ?_⟩, h.qdu, h.lcu, h.lkp, ?_, h.nextTicket, hg _ _ h.reports, fun hnone => ?_,
    h.tracks⟩
  · cases changes <;> exact h.same.found
  · cases changes <;> exact h.moved
  · obtain ⟨hbsc, hrsc⟩ := h.idle hnone
    exact ⟨hbsc, congrArg g hrsc⟩

/-- Read from the start of the event, where the RFT has left the banks and the commit: what becomes of the banks, the tracks
and the BSC. -/
theorem tracksFrom {s : State} (h : x.bscOnly y) (hcts : x.cts = s.cts) (hbsc : x.bsc = s.bsc) :
    s.tracksAre y x.tev ∧ (s.bsc.commit = none → y.bsc = s.bsc) := by
  refine ⟨?_, fun hnone => (h.idle (by rw [hbsc, hnone])).1.trans hbsc⟩
  obtain ⟨hcts', htev'⟩ | ⟨hpending, hended, hcts', htev'⟩ := h.tracks
  · exact .inl ⟨hcts'.trans hcts, htev'⟩
  · exact .inr ⟨hbsc ▸ hpending, hended, hcts ▸ hcts', htev'⟩

/-- Read from the start of the event: the reports are those that the RFT has made. -/
theorem reportsFrom {s : State} (h : x.bscOnly y) (hbsc : x.bsc = s.bsc) : s.reportsAre y x.rsc :=
  ⟨(Rsc.reports_eq_iff _ _).mp h.reports, fun hnone => (h.idle (by rw [hbsc, hnone])).2⟩

end State.bscOnly

/-! ## A step -/

/-- Whatever its turn, what the BSC does at a step comes on top of what the RFT does. -/
theorem State.handStep_bscOnly (turn : ArrivalTurn) (x : State) : x.rftStep.bscOnly (x.handStep turn) := by
  cases turn with
  | beforeLoss => exact ((State.bscOnly.bscArrive x.pcu.pos x).acts x.rftStep_acts).trans (.bscLeft _)
  | afterRft => exact (State.bscOnly.bscArrive x.pcu.pos _).trans (.bscLeft _)
  | afterLoss => exact (State.bscOnly.bscLeft _).trans (.bscArrive _ _)
  | afterIndex =>
    refine (State.bscOnly.bscLeft _).trans ?_
    unfold State.handStep
    dsimp only
    split
    · exact .arrival _ _
    · exact .bscArrive _ _

end Sys2Proof.Machine
end

section
/-! SUPPORT. A step in each sync state (R10, R29, R36, R37, R44, R54). -/

namespace Sys2Proof.Machine

/-! ## The step of the sample -/

theorem State.inSample_of_stepDue {s : State} {d : Dir} (h : s.stepDue = some d) : s.sample.inSample = true := by
  unfold State.stepDue at h
  split at h
  · exact by_contra fun hclosed => by simp [hclosed] at h
  · simp at h
  · simp at h

theorem exec_step {s : State} {d : Dir} (turn : StepTurn) (hhigh : s.nrstLow = false) (h : s.stepDue = some d) :
    exec (.step turn) s = .next (s.takeStepTurn d turn).settle := by
  simp only [exec, execStep]
  rw [live_of_high hhigh, h]

theorem State.anyDue_of_stepDue {s : State} {d : Dir} (h : s.stepDue = some d) : s.anyDue = true := by
  simp [State.anyDue, h]

theorem State.applyStep_found (d : Dir) (s : State) :
    (s.applyStep d).sample.found = (s.sample.inSample, none, s.sample.z, s.sample.edges, s.sample.refEdges) := by
  simp [State.applyStep, Sample.found]

theorem State.applyStep_moved (d : Dir) (s : State) : (s.applyStep d).sample.moved = true := rfl

theorem State.applyStep_pcu (d : Dir) (s : State) :
    (s.applyStep d).pcu = { s.pcu with pos := s.pcu.pos.step s.pcu.axis.cpr d, dir := d } := rfl

/-- What a step leaves of the sample, in whatever turn its arrival goes. -/
theorem State.takeStep_sample (d : Dir) (turn : ArrivalTurn) (s : State) :
    (s.takeStep d turn).sample.ab = none ∧ (s.takeStep d turn).sample.z = s.sample.z
      ∧ (s.takeStep d turn).sample.edges = s.sample.edges ∧ (s.takeStep d turn).sample.refEdges = s.sample.refEdges := by
  have hfound := s.takeStep_found d turn
  simp only [Sample.found, Prod.mk.injEq] at hfound
  obtain ⟨-, hab, hz, hedges, hrefEdges⟩ := hfound
  exact ⟨hab, hz, hedges, hrefEdges⟩

/-- The RFT leaves the rest of the sample's step. -/
theorem State.rftStep_moved (x : State) : x.rftStep.sample.moved = x.sample.moved := by
  obtain ⟨changes, rft, g, -, hdoes⟩ := x.rftStep_acts
  rw [hdoes x (.refl x)]
  cases changes <;> rfl

theorem State.takeStep_moved (d : Dir) (turn : ArrivalTurn) (s : State) : (s.takeStep d turn).sample.moved = true :=
  (State.handStep_bscOnly turn _).moved.trans ((State.rftStep_moved _).trans (s.applyStep_moved d))

theorem State.takeStep_pcu (d : Dir) (turn : ArrivalTurn) (s : State) : (s.takeStep d turn).pcu =
    { s.pcu with pos := s.pcu.pos.step s.pcu.axis.cpr d, dir := d } := State.handStep_pcu turn (s.applyStep d)

theorem State.takeStep_tsu (d : Dir) (turn : ArrivalTurn) (s : State) :
    (s.takeStep d turn).tsu = (s.applyStep d).tsu := State.handStep_tsu turn (s.applyStep d)

/-- What the RFT leaves of the banks and the tracks at a step, for the BSC. -/
theorem State.takeStep_tracks (d : Dir) (turn : ArrivalTurn) (s : State) :
    s.tracksAre (s.takeStep d turn) s.tev ∧ (s.bsc.commit = none → (s.takeStep d turn).bsc = s.bsc) := by
  have htev : (s.applyStep d).rftStep.tev = s.tev := by simp
  exact htev ▸ (State.handStep_bscOnly turn (s.applyStep d)).tracksFrom (by simp) (by simp)

/-- The reports are those that the RFT makes. -/
theorem State.takeStep_reports {d : Dir} {s : State} {r : Rsc} (turn : ArrivalTurn) (h : (s.applyStep d).rftStep.rsc = r) :
    s.reportsAre (s.takeStep d turn) r := by
  exact h ▸ (State.handStep_bscOnly turn (s.applyStep d)).reportsFrom (by simp)

/-- Without a pending commit the BSC does nothing at a step, but that a kept arrival is forgotten. -/
theorem State.handStep_of_none (turn : ArrivalTurn) {x : State} (h : x.bsc.commit = none) :
    ∃ kept, (kept = none ∨ kept = x.sample.arrival)
      ∧ x.handStep turn = { x.rftStep with sample := { x.rftStep.sample with arrival := kept } } := by
  have hrft : x.rftStep.bsc.commit = none ∧ x.rftStep.sample.arrival = x.sample.arrival := by
    obtain ⟨changes, rft, g, -, hdoes⟩ := x.rftStep_acts
    rw [hdoes x (.refl x)]
    exact ⟨h, by cases changes <;> rfl⟩
  obtain ⟨hnone, harrival⟩ := hrft
  cases turn with
  | beforeLoss =>
    exact ⟨_, .inr harrival, by
      rw [State.handStep, State.bscArrive_of_none _ h, State.bscLeft_of_none hnone]⟩
  | afterRft =>
    exact ⟨_, .inr harrival, by
      rw [State.handStep, State.bscArrive_of_none _ hnone, State.bscLeft_of_none hnone]⟩
  | afterLoss =>
    exact ⟨_, .inr harrival, by
      rw [State.handStep, State.bscLeft_of_none hnone, State.bscArrive_of_none _ hnone]⟩
  | afterIndex =>
    have harrives : x.rftStep.arrivesAt x.pcu.pos = false := by simp [State.arrivesAt, h]
    simp only [State.handStep, State.bscLeft_of_none hnone, State.bscArrive_of_none _ hnone, harrives]
    split
    · exact ⟨none, .inl rfl, rfl⟩
    · exact ⟨_, .inr harrival, rfl⟩

/-! ## The position (R10) -/

section
variable {cpr : Nat} {p : AbsPos}

theorem AbsPos.step_fwd_of_lt (h : p.angle + 1 < cpr) : p.step cpr .fwd = { rev := p.rev, angle := p.angle + 1 } :=
  if_neg (Nat.not_le.mpr h)

theorem AbsPos.step_fwd_of_eq (h : p.angle + 1 = cpr) : p.step cpr .fwd = { rev := p.rev + 1, angle := 0 } :=
  if_pos h.ge

theorem AbsPos.step_rev_of_pos (h : 0 < p.angle) : p.step cpr .rev = { rev := p.rev, angle := p.angle - 1 } :=
  if_neg h.ne'

theorem AbsPos.step_rev_of_zero (h : p.angle = 0) : p.step cpr .rev = { rev := p.rev - 1, angle := cpr - 1 } :=
  if_pos h

/-- A step is one count of travel, also across the wrap (R10, R11). -/
theorem AbsPos.step_travel (hcpr : 8 ≤ cpr) (hp : p.angle < cpr) :
    travel cpr p (p.step cpr .fwd) = 1 ∧ travel cpr p (p.step cpr .rev) = -1 := by
  constructor
  · obtain hlt | heq : p.angle + 1 < cpr ∨ p.angle + 1 = cpr := by omega
    · simp [AbsPos.step_fwd_of_lt hlt, travel]
    · have hone : (p.rev + 1 - p.rev).toInt = 1 := by simp
      rw [AbsPos.step_fwd_of_eq heq, travel, hone]
      simp only
      omega
  · obtain hpos | hzero : 0 < p.angle ∨ p.angle = 0 := by omega
    · rw [AbsPos.step_rev_of_pos hpos, travel, BitVec.sub_self]
      simp
      omega
    · have hminus : (p.rev - 1 - p.rev).toInt = -1 := by
        have : p.rev - 1 - p.rev = -1 := by ring
        rw [this]
        rfl
      rw [AbsPos.step_rev_of_zero hzero, travel, hminus]
      simp only
      omega

end

/-! ## The TSU's part (R44, R54, R151) -/

/-- The TSU's part of a step, with its MOTION events. -/
theorem State.tsuStep_eq (d : Dir) (s : State) : s.tsuStep d =
    { s with
      tsu := s.tsu.step d
      rsc := s.rsc.addMotions
        ((if s.tsu.stalled then [.stallLeft] else [])
          ++ (if s.tsu.lastDir = some d.opposite then [.reversal] else [])
          ++ (if s.tsu.overspeed = false ∧ (s.tsu.step d).overspeed = true then [.overspeedEntered] else [])
          ++ (if s.tsu.overspeed = true ∧ (s.tsu.step d).overspeed = false then [.overspeedLeft] else [])) } := by
  simp [State.tsuStep, overspeedEvents_eq, Tsu.reverses]

theorem State.stepSpeed_of_ahead {s : State} (d : Dir) (h : s.sample.ahead = true) : s.stepSpeed d = s := if_pos h

theorem State.stepSpeed_of_notAhead {s : State} (d : Dir) (h : s.sample.ahead = false) : s.stepSpeed d = s.tsuStep d :=
  if_neg (by simp [h])

/-- Of the TSU's part of a step, the other blocks see nothing. -/
theorem State.stepSpeed_eq (d : Dir) (s : State) :
    s.stepSpeed d = { s with tsu := (s.applyStep d).tsu, rsc := (s.applyStep d).rsc } := by
  show s.stepSpeed d = { s with tsu := (s.stepSpeed d).tsu, rsc := (s.stepSpeed d).rsc }
  unfold State.stepSpeed
  split <;> rfl

/-- Once the TSU has gone ahead, the rest of the step is that of the whole step. -/
theorem State.applyStep_of_ahead (d : Dir) (s : State) :
    State.applyStep d { s.stepSpeed d with sample := { s.sample with ahead := true, moved := true } } = s.applyStep d := by
  rw [State.applyStep, State.stepSpeed_of_ahead d rfl, State.applyStep, State.stepSpeed_eq]

/-- Settles O13. The position is arithmetic; a step in FREE or LOST leaves the RFT and the BSC as they are; and letting the
TSU go ahead leaves the same step for the other blocks. -/
theorem stepMovesThePositionByOneCount : Obligations.StepMovesThePositionByOneCount := by
  refine ⟨fun cpr p hcpr hp => ⟨AbsPos.step_fwd_of_lt, AbsPos.step_fwd_of_eq, AbsPos.step_rev_of_pos,
      AbsPos.step_rev_of_zero, (AbsPos.step_travel hcpr hp).1, (AbsPos.step_travel hcpr hp).2, ?position⟩,
    fun s d turn hhigh hstep hsync hnone hahead => ?idle, fun s d hhigh hstep hahead => ?ahead, fun s d => ⟨?_, ?_⟩⟩
  case position =>
    rintro d turn s hhigh hstep rfl rfl
    refine ⟨_, exec_step (.take turn) hhigh hstep, ?_⟩
    rw [State.settle_pcu]
    exact s.takeStep_pcu d turn
  case idle =>
    have hsame : (s.applyStep d).rftStep = s.applyStep d := by
      obtain hfree | ⟨r, hlost⟩ := hsync
      · exact State.rftStep_of_free (by simpa using hfree)
      · exact State.rftStep_of_lost (r := r) (by simpa using hlost)
    obtain ⟨kept, hkept, htaken⟩ := State.handStep_of_none turn (x := s.applyStep d) (by simpa using hnone)
    refine ⟨kept, by simpa [State.applyStep] using hkept, (exec_step (.take turn) hhigh hstep).trans ?_⟩
    rw [State.takeStepTurn, State.takeStep, htaken, hsame, State.applyStep, State.stepSpeed_of_notAhead d hahead,
      State.tsuStep_eq, ← hahead]
  case ahead =>
    have hdue : (s.takeStepTurn d .speed).stepDue = some d := by
      simpa [State.stepDue, State.takeStepTurn] using hstep
    have hhigh' : (s.takeStepTurn d .speed).nrstLow = false := by simpa [State.takeStepTurn] using hhigh
    refine ⟨s.takeStepTurn d .speed, ?_, ?_, fun turn => ?_⟩
    · rw [exec_step .speed hhigh hstep, State.settle_of_anyDue _ (State.anyDue_of_stepDue hdue)]
    · rw [State.takeStepTurn, State.stepSpeed_eq]
    · rw [exec_step (.take turn) hhigh' hdue, exec_step (.take turn) hhigh hstep]
      simp only [State.takeStepTurn, State.takeStep, State.applyStep_of_ahead]
  · intro hahead
    rw [State.applyStep, State.stepSpeed_of_ahead d hahead]
    exact ⟨rfl, rfl⟩
  · intro hahead
    rw [State.applyStep, State.stepSpeed_of_notAhead d hahead]
    rfl

end Sys2Proof.Machine
end

section
/-! SUPPORT. A step in SEEKING and in LOCKED (R7, R26, R29, R33, R36, R37). -/

namespace Sys2Proof.Machine

/-! ## The reference event of a sample (R7, R26) -/

theorem edgeCodeSelects_iff (code : Byte) (k : EdgeKind) : edgeCodeSelects code k = true ↔
    code = 3 ∨ (code = 1 ∧ k = .rise) ∨ (code = 2 ∧ k = .fall) := by
  simp only [← BitVec.toNat_inj]
  obtain h | h | h | h | h : code.toNat = 0 ∨ code.toNat = 1 ∨ code.toNat = 2 ∨ code.toNat = 3 ∨ 3 < code.toNat := by omega
  case inr.inr.inr.inr =>
    simp [edgeCodeSelects, edgeSel?_of_lt h, h.ne']
    omega
  all_goals cases k <;> simp [edgeCodeSelects, edgeSel?, h]

theorem State.stepDue_of_taken {x : State} (h : x.sample.ab = none) : x.stepDue = none := by
  rw [State.stepDue, h]

theorem State.indexFormed_applyStep {s : State} {d : Dir} (hopen : s.sample.inSample = true) :
    (s.applyStep d).indexFormed = true ↔ ∃ rise, s.sample.z = some rise ∧ (rise = true ↔ d = .fwd) := by
  have hdir : (s.applyStep d).indexDir = d := by
    rw [State.indexDir, State.stepDue_of_taken rfl]
    rfl
  have hz : (s.applyStep d).sample.z = s.sample.z := by
    have hfound := s.applyStep_found d
    simp only [Sample.found, Prod.mk.injEq] at hfound
    exact hfound.2.2.1
  cases hrise : s.sample.z with
  | none => simp [State.indexFormed, hz, hrise]
  | some rise => simp [State.indexFormed_iff (s := s.applyStep d) (by simpa using hopen) (hz.trans hrise), hdir]

theorem State.referenceEventDue_iff {x : State} (hopen : x.sample.inSample = true) (r : SeekRecord) :
    x.referenceEventDue r = true ↔ (r.source = .index ∧ x.indexFormed = true)
      ∨ ∃ n k, r.source = .latch n ∧ x.sample.refEdges.get n = some k
        ∧ (r.edgeCode = 3 ∨ (r.edgeCode = 1 ∧ k = .rise) ∨ (r.edgeCode = 2 ∧ k = .fall)) := by
  unfold State.referenceEventDue
  cases hsource : r.source with
  | index => simp
  | latch n =>
    cases hk : x.sample.refEdges.get n with
    | none => simp [hk]
    | some k => simp [hopen, hk, edgeCodeSelects_iff]

/-- Settles O15. The sample's reference event is what the travel check looks for after the step; without a pending commit
the RFT's part of the step is all that happens. -/
theorem stepInSeekingChecksTheTravel : Obligations.StepInSeekingChecksTheTravel := by
  intro s d turn r due hhigh hstep hsync hnone hdue
  have hopen := State.inSample_of_stepDue hstep
  have hfound := s.applyStep_found d
  simp only [Sample.found, Prod.mk.injEq] at hfound
  obtain ⟨hopen', -, -, -, hrefEdges⟩ := hfound
  obtain rfl : due = (s.applyStep d).referenceEventDue r := by
    rw [Bool.eq_iff_iff, hdue, State.referenceEventDue_iff (hopen'.trans hopen), State.indexFormed_applyStep hopen, hrefEdges]
  have hsync' : (s.applyStep d).rft.sync = .seeking r := by simpa using hsync
  obtain ⟨kept, -, htaken⟩ := State.handStep_of_none turn (x := s.applyStep d) (by simpa using hnone)
  obtain ⟨hab, hz, hedges, hrefEdges'⟩ := s.takeStep_sample d turn
  refine ⟨s.takeStep d turn, _, exec_step (.take turn) hhigh hstep, rfl, s.takeStep_pcu d turn, s.takeStep_tsu d turn,
    fun hfails => ?_, fun hseeks => ?_, ?_, ?_, ?_, ?_, ?_, ?_, hab, s.takeStep_moved d turn, hz, hedges, hrefEdges'⟩
  · rw [State.takeStep, htaken, State.rftStep_of_fails hsync' hfails, State.failSeek_eq]
    simp [State.rftDoes]
  · rw [State.takeStep, htaken, State.rftStep_of_seeks hsync' hseeks]
    simp
  all_goals
    rw [State.takeStep, htaken]
    simp

/-- Settles O16. The RFT's part of the step is one of three: no index is missing, one is, or the lock is lost by it; the
rest is the BSC's. -/
theorem stepInLockDetectsAMissingIndex : Obligations.StepInLockDetectsAMissingIndex := by
  intro s d turn r hhigh hstep hsync
  have hrft : (s.applyStep d).rft = s.rft := s.applyStep_rft d
  have hsync' : (s.applyStep d).rft.sync = .locked r := by rw [hrft, hsync]
  have hbsc := State.handStep_bscOnly turn (s.applyStep d)
  obtain ⟨htracks, hbsc'⟩ := s.takeStep_tracks d turn
  obtain ⟨hab, hz, hedges, hrefEdges⟩ := s.takeStep_sample d turn
  have outcome : ∀ {rft : Rft} {rsc : Rsc}, (s.applyStep d).rftStep.rft = rft → (s.applyStep d).rftStep.rsc = rsc →
      (s.takeStep d turn).rft = rft ∧ s.reportsAre (s.takeStep d turn) rsc :=
    fun hrft hrsc => ⟨hbsc.same.rft.trans hrft, State.takeStep_reports turn hrsc⟩
  have passes : (s.applyStep d).rftStep = s.applyStep d →
      (s.takeStep d turn).rft = s.rft ∧ s.reportsAre (s.takeStep d turn) (s.applyStep d).rsc :=
    fun hsame => outcome (by rw [hsame, hrft]) (by rw [hsame])
  refine ⟨s.takeStep d turn, _, exec_step (.take turn) hhigh hstep, rfl, s.takeStep_pcu d turn, s.takeStep_tsu d turn,
    ?_, ?_, ?_, htracks, hbsc', hab, s.takeStep_moved d turn, hz, hedges, hrefEdges, fun hunchecked => ?_,
    fun ix hix hcheck trav htrav => ⟨fun hwithin => ?_, fun hmissing r' hr' => ⟨fun hbelow => ?_, fun hlimit => ?_⟩⟩⟩
  · simp [State.takeStep]
  · simp [State.takeStep]
  · simp [State.takeStep]
  · cases hindex : r.index with
    | none => exact passes (State.rftStep_of_noIndex hsync' hindex)
    | some ix =>
      refine passes (State.rftStep_of_passes hsync' hindex fun hmissing => ?_)
      have hcheck := hmissing.1
      rw [hrft] at hcheck
      simp [hindex, hcheck] at hunchecked
  · refine passes (State.rftStep_of_passes hsync' hix fun hmissing => ?_)
    have hbeyond := hmissing.2
    rw [hrft] at hbeyond
    subst htrav
    exact absurd hwithin (Nat.not_le.mpr hbeyond)
  · subst htrav
    have hmissing' : (s.applyStep d).indexMissing ix := ⟨by rw [hrft, hcheck], by rw [hrft]; exact hmissing⟩
    have hact := (State.rftStep_of_missing hsync' hix hmissing').trans
      (State.indexError_of_below (by rw [hrft]; exact hbelow))
    refine outcome ?_ ?_
    · rw [hact, hr', State.rftDoes, hrft]
      rfl
    · rw [hact, State.rftDoes]
  · subst htrav
    have hmissing' : (s.applyStep d).indexMissing ix := ⟨by rw [hrft, hcheck], by rw [hrft]; exact hmissing⟩
    have hact := (State.rftStep_of_missing hsync' hix hmissing').trans
      (State.indexError_of_limit (by rw [hsync']; rfl) (by rw [hrft]; exact hlimit))
    refine outcome ?_ ?_
    · rw [hact, hr', State.rftDoes, hrft]
      rfl
    · rw [hact, State.rftDoes, s.applyStep_tsu_timebase]

end Sys2Proof.Machine
end

section
/-! SUPPORT. What becomes of the pending commit at a step (R110, R112, R114 to R118). -/

namespace Sys2Proof.Machine

/-! ## The three ends of an act: the commit waits, is carried out, or is abandoned -/

/-- From `x` to `y` the pending commit, the banks, the tracks and the completions stay. -/
structure State.commitWaits (x y : State) : Prop where
  commit : y.bsc.commit = x.bsc.commit
  cts : y.cts = x.cts
  inFlight : y.rsc.inFlight = x.rsc.inFlight
  waiting : y.rsc.waiting = x.rsc.waiting
  tev : y.tev = x.tev
  timebase : y.tsu.timebase = x.tsu.timebase

/-- From `x` to `y` the commit `c` has been carried out, at position `p` (R112, R115). -/
structure State.commitSwapped (c : Commit) (p : AbsPos) (x y : State) : Prop where
  commit : y.bsc.commit = none
  cts : y.cts = x.cts.swap
  inFlight : y.rsc.inFlight = x.rsc.inFlight - 1
  waiting : y.rsc.waiting = x.rsc.waiting ++
    [{ ticket := c.ticket, op := .commit, outcome := .swapped, time := x.tsu.timebase, pos := some p
       generation := some (x.cts.generation + 1) }]
  tev : y.tev = x.tev.clearMemories

/-- From `x` to `y` the commit `c` has been abandoned (R114, R115). -/
structure State.commitAbandoned (c : Commit) (x y : State) : Prop where
  commit : y.bsc.commit = none
  cts : y.cts = x.cts
  inFlight : y.rsc.inFlight = x.rsc.inFlight - 1
  waiting : y.rsc.waiting = x.rsc.waiting ++
    [{ ticket := c.ticket, op := .commit, outcome := .abandoned, time := x.tsu.timebase, pos := none
       generation := none }]
  tev : y.tev = x.tev

section
variable {x y z : State} {c : Commit} {p : AbsPos}

theorem State.commitWaits.refl (x : State) : x.commitWaits x := ⟨rfl, rfl, rfl, rfl, rfl, rfl⟩

theorem State.commitWaits.of_eq (h : y = x) : x.commitWaits y := h ▸ .refl x

theorem State.commitWaits.trans (h : x.commitWaits y) (h' : y.commitWaits z) : x.commitWaits z :=
  ⟨h'.commit.trans h.commit, h'.cts.trans h.cts, h'.inFlight.trans h.inFlight, h'.waiting.trans h.waiting,
    h'.tev.trans h.tev, h'.timebase.trans h.timebase⟩

theorem State.commitWaits.swapped (h : x.commitWaits y) (h' : State.commitSwapped c p y z) :
    State.commitSwapped c p x z := by
  obtain ⟨hcommit, hcts, hinFlight, hwaiting, htev⟩ := h'
  rw [h.cts] at hcts
  rw [h.inFlight] at hinFlight
  rw [h.waiting, h.timebase, h.cts] at hwaiting
  rw [h.tev] at htev
  exact ⟨hcommit, hcts, hinFlight, hwaiting, htev⟩

theorem State.commitWaits.abandoned (h : x.commitWaits y) (h' : State.commitAbandoned c y z) :
    State.commitAbandoned c x z := by
  obtain ⟨hcommit, hcts, hinFlight, hwaiting, htev⟩ := h'
  rw [h.cts] at hcts
  rw [h.inFlight] at hinFlight
  rw [h.waiting, h.timebase] at hwaiting
  rw [h.tev] at htev
  exact ⟨hcommit, hcts, hinFlight, hwaiting, htev⟩

theorem State.commitSwapped.waits (h : State.commitSwapped c p x y) (h' : y.commitWaits z) :
    State.commitSwapped c p x z :=
  ⟨h'.commit.trans h.commit, h'.cts.trans h.cts, h'.inFlight.trans h.inFlight, h'.waiting.trans h.waiting,
    h'.tev.trans h.tev⟩

theorem State.commitAbandoned.waits (h : State.commitAbandoned c x y) (h' : y.commitWaits z) :
    State.commitAbandoned c x z :=
  ⟨h'.commit.trans h.commit, h'.cts.trans h.cts, h'.inFlight.trans h.inFlight, h'.waiting.trans h.waiting,
    h'.tev.trans h.tev⟩

theorem State.endSwapped_swapped (c : Commit) (p : AbsPos) (x : State) : State.commitSwapped c p x (x.endSwapped c p) :=
  ⟨rfl, rfl, rfl, rfl, rfl⟩

theorem State.bscLeft_abandoned (h : x.rft.sync.state ≠ .locked) (hc : x.bsc.commit = some c) :
    State.commitAbandoned c x x.bscLeft := by
  rw [State.bscLeft_of_pending h hc]
  exact ⟨rfl, rfl, rfl, rfl, rfl⟩

theorem State.bscLeft_waits (h : x.rft.sync.state = .locked ∨ x.bsc.commit = none) : x.commitWaits x.bscLeft := by
  obtain h | h := h
  · exact .of_eq (State.bscLeft_of_locked h)
  · exact .of_eq (State.bscLeft_of_none h)

theorem State.bscArrive_waits (p : AbsPos) (h : x.bsc.commit = none) : x.commitWaits (x.bscArrive p) :=
  .of_eq (State.bscArrive_of_none p h)

theorem State.bscArrive_swapped (hc : x.bsc.commit = some c) (hp : c.policy = .atPosition p.angle) :
    State.commitSwapped c p x (x.bscArrive p) :=
  State.bscArrive_of_arrival hc hp ▸ State.endSwapped_swapped c p x

theorem State.bscArrive_waits_of_other (hc : x.bsc.commit = some c) (hp : c.policy ≠ .atPosition p.angle) :
    x.commitWaits (x.bscArrive p) :=
  .of_eq (State.bscArrive_of_other hc hp)

/-- The arrival kept for after the index event is no end of the commit. -/
theorem State.arrival_waits (kept : Option AbsPos) (x : State) :
    x.commitWaits { x with sample := { x.sample with arrival := kept } } := ⟨rfl, rfl, rfl, rfl, rfl, rfl⟩

end

/-! ## The RFT's part in LOCKED -/

/-- An act of the RFT that ends in LOST or stays in LOCKED, with nothing completed. -/
structure State.lockActs (f : State → State) (lost : Bool) (rft : Rft) (g : Rsc → Rsc) (x : State) : Prop where
  state : rft.sync.state = if lost then .lost else .locked
  inFlight : ∀ r, (g r).inFlight = r.inFlight
  waiting : ∀ r, (g r).waiting = r.waiting
  acts : ∀ y, x.rftSame y → f y = y.rftDoes lost rft g

theorem State.lockActs.waits {f : State → State} {lost : Bool} {rft : Rft} {g : Rsc → Rsc} {x y : State}
    (h : State.lockActs f lost rft g x) (hy : x.rftSame y) : y.commitWaits (f y) := by
  rw [h.acts y hy]
  exact ⟨rfl, rfl, h.inFlight _, h.waiting _, rfl, rfl⟩

theorem State.lockActs.rft_eq {f : State → State} {lost : Bool} {rft : Rft} {g : Rsc → Rsc} {x y : State}
    (h : State.lockActs f lost rft g x) (hy : x.rftSame y) : (f y).rft = rft := by
  rw [h.acts y hy]
  rfl

/-- The reference record once the index `ix` has been missed, with travel `t` since it (R36, R37). -/
def RefRecord.missed (ix : IndexRef) (t : Int) (r : RefRecord) : RefRecord :=
  { r with consec := r.consec + 1, index := some (ix.miss t) }

/-- A step in LOCKED loses the lock where an index is missing for the last time (R36, R37). -/
theorem State.rftStep_lockActs {x : State} {r : RefRecord} (hsync : x.rft.sync = .locked r) {lost : Bool}
    (hlost : lost = true ↔ x.rft.inForce.limit ≤ r.consec + 1 ∧ ∃ ix, r.index = some ix ∧ x.indexMissing ix) :
    ∃ rft g, State.lockActs State.rftStep lost rft g x := by
  have hlocked : x.rft.sync.state = .locked := by rw [hsync]; rfl
  by_cases hmissing : ∃ ix, r.index = some ix ∧ x.indexMissing ix
  · obtain ⟨ix, hindex, hmissing'⟩ := hmissing
    have hstep : ∀ y, x.rftSame y → y.rftStep = y.indexError .indexMissing
        { r with index := some (ix.miss (travel x.pcu.axis.cpr ix.last x.pcu.pos)) } := fun y hy => by
      rw [State.rftStep_of_missing (hy.rft ▸ hsync) hindex ((hy.indexMissing ix).mpr hmissing'), hy.pcu]
    by_cases hlimit : x.rft.inForce.limit ≤ r.consec + 1
    · obtain rfl : lost = true := hlost.mpr ⟨hlimit, ix, hindex, hmissing'⟩
      refine ⟨{ x.rft with sync := .lost (r.missed ix (travel x.pcu.axis.cpr ix.last x.pcu.pos)), cause := .indexErrors },
        fun rsc => (rsc.addFault .indexMissing).syncEvent .lost .indexErrors x.tsu.timebase,
        rfl, fun _ => rfl, fun _ => rfl, fun y hy => ?_⟩
      rw [hstep y hy, State.indexError_of_limit (by rw [hy.rft, hlocked]) (by rwa [hy.rft]), hy.rft, hy.tsu]
      rfl
    · obtain rfl : lost = false := Bool.eq_false_iff.mpr fun h => hlimit (hlost.mp h).1
      refine ⟨{ x.rft with sync := .locked (r.missed ix (travel x.pcu.axis.cpr ix.last x.pcu.pos)) }, Rsc.addFault .indexMissing, rfl, fun _ => rfl, fun _ => rfl,
        fun y hy => ?_⟩
      rw [hstep y hy, State.indexError_of_below (by rw [hy.rft]; exact Nat.not_le.mp hlimit), hy.rft]
      rfl
  · obtain rfl : lost = false := Bool.eq_false_iff.mpr fun h => hmissing (hlost.mp h).2
    refine ⟨x.rft, id, hlocked, fun _ => rfl, fun _ => rfl, fun y hy => ?_⟩
    have hsame : y.rftStep = y := by
      cases hindex : r.index with
      | none => exact State.rftStep_of_noIndex (hy.rft ▸ hsync) hindex
      | some ix =>
        exact State.rftStep_of_passes (hy.rft ▸ hsync) hindex fun h => hmissing ⟨ix, hindex, (hy.indexMissing ix).mp h⟩
    rw [hsame]
    simp [State.rftDoes, ← hy.rft]

/-! ## The commit at a step -/

section
variable {x : State} {c : Commit} {lost : Bool} {rft : Rft} {g : Rsc → Rsc}
  (hc : x.bsc.commit = some c) (hact : State.lockActs State.rftStep lost rft g x)
include hc hact

theorem State.lockActs.commit_eq : x.rftStep.bsc.commit = some c := (hact.waits (.refl x)).commit.trans hc

omit hc in
/-- After the RFT's part of a step with the lock kept, the BSC's look at the sync state changes nothing. -/
theorem State.lockActs.kept_waits (hkept : lost = false) : x.commitWaits x.rftStep.bscLeft :=
  (hact.waits (.refl x)).trans (State.bscLeft_waits (.inl (by rw [hact.rft_eq (.refl x), hact.state, hkept]; rfl)))

theorem State.lockActs.kept_commit (hkept : lost = false) : x.rftStep.bscLeft.bsc.commit = some c :=
  (hact.kept_waits hkept).commit.trans hc

theorem State.lockActs.lost_abandoned (hlost : lost = true) : State.commitAbandoned c x x.rftStep.bscLeft :=
  (hact.waits (.refl x)).abandoned (State.bscLeft_abandoned
    (by rw [hact.rft_eq (.refl x), hact.state, hlost]; exact SyncState.noConfusion) (hact.commit_eq hc))

/-- The arrival of the commit, in a turn that lets the BSC take it (R110, R117, R118). -/
theorem State.handStep_swapped {turn : ArrivalTurn} (hp : c.policy = .atPosition x.pcu.pos.angle)
    (hturn : turn = .beforeLoss ∨ turn = .afterRft
      ∨ (lost = false ∧ (turn = .afterLoss ∨ x.rftStep.bscLeft.indexFormed = false))) :
    State.commitSwapped c x.pcu.pos x (x.handStep turn) := by
  have before : State.commitSwapped c x.pcu.pos x (x.handStep .beforeLoss) := by
    have harrive := State.bscArrive_swapped (p := x.pcu.pos) hc hp
    have hrft := harrive.waits (hact.waits (State.bscOnly.bscArrive x.pcu.pos x).same)
    exact hrft.waits (State.bscLeft_waits (.inr hrft.commit))
  have afterRft : State.commitSwapped c x.pcu.pos x (x.handStep .afterRft) := by
    have harrive := (hact.waits (.refl x)).swapped (State.bscArrive_swapped (hact.commit_eq hc) hp)
    exact harrive.waits (State.bscLeft_waits (.inr harrive.commit))
  obtain rfl | rfl | ⟨hkept, hturn⟩ := hturn
  · exact before
  · exact afterRft
  · have harrive := (hact.kept_waits hkept).swapped (State.bscArrive_swapped (hact.kept_commit hc hkept) hp)
    obtain rfl | hindex := hturn
    · exact harrive
    · cases turn with
      | beforeLoss => exact before
      | afterRft => exact afterRft
      | afterLoss => exact harrive
      | afterIndex =>
        have heq : x.handStep .afterIndex = x.rftStep.bscLeft.bscArrive x.pcu.pos := if_neg (by simp [hindex])
        rw [heq]
        exact harrive

/-- A loss of the lock abandons the commit, unless its arrival is taken before the loss (R114, R117). -/
theorem State.handStep_abandoned {turn : ArrivalTurn} (hlost : lost = true)
    (hturn : c.policy ≠ .atPosition x.pcu.pos.angle ∨ turn = .afterLoss ∨ turn = .afterIndex) :
    State.commitAbandoned c x (x.handStep turn) := by
  have habandoned := hact.lost_abandoned hc hlost
  have later : State.commitAbandoned c x (x.rftStep.bscLeft.bscArrive x.pcu.pos) :=
    habandoned.waits (State.bscArrive_waits _ habandoned.commit)
  cases turn with
  | beforeLoss =>
    have hsame : x.bscArrive x.pcu.pos = x := State.bscArrive_of_other hc (hturn.resolve_right (by simp))
    rw [State.handStep, hsame]
    exact habandoned
  | afterRft =>
    have hsame : x.rftStep.bscArrive x.pcu.pos = x.rftStep :=
      State.bscArrive_of_other (hact.commit_eq hc) (hturn.resolve_right (by simp))
    rw [State.handStep, hsame]
    exact habandoned
  | afterLoss => exact later
  | afterIndex =>
    unfold State.handStep
    dsimp only
    split
    · exact habandoned.waits (State.arrival_waits _ _)
    · exact later

/-- With the lock kept and no arrival, the commit goes on waiting. -/
theorem State.handStep_waits (turn : ArrivalTurn) (hkept : lost = false)
    (hp : c.policy ≠ .atPosition x.pcu.pos.angle) : x.commitWaits (x.handStep turn) := by
  have hwaits := hact.kept_waits hkept
  have later : x.commitWaits (x.rftStep.bscLeft.bscArrive x.pcu.pos) :=
    hwaits.trans (State.bscArrive_waits_of_other (hact.kept_commit hc hkept) hp)
  cases turn with
  | beforeLoss => rwa [State.handStep, State.bscArrive_of_other hc hp]
  | afterRft => rwa [State.handStep, State.bscArrive_of_other (hact.commit_eq hc) hp]
  | afterLoss => exact later
  | afterIndex =>
    unfold State.handStep
    dsimp only
    split
    · exact hwaits.trans (State.arrival_waits _ _)
    · exact later

/-- An arrival that the BSC takes after the index event of the sample is kept until then (R118). -/
theorem State.handStep_keeps (hkept : lost = false) (hp : c.policy = .atPosition x.pcu.pos.angle)
    (hindex : x.rftStep.bscLeft.indexFormed = true) :
    x.commitWaits (x.handStep .afterIndex) ∧ (x.handStep .afterIndex).sample.arrival = some x.pcu.pos := by
  have harrives : x.rftStep.bscLeft.arrivesAt x.pcu.pos = true := by
    simp only [State.arrivesAt, hact.kept_commit hc hkept, hp, decide_true]
  have heq : x.handStep .afterIndex = { x.rftStep.bscLeft with
      sample := { x.rftStep.bscLeft.sample with arrival := some x.pcu.pos } } := by
    simp only [State.handStep, hindex, harrives, if_true]
  rw [heq]
  exact ⟨(hact.kept_waits hkept).trans (State.arrival_waits _ _), rfl⟩

end

end Sys2Proof.Machine
end

section
/-! SUPPORT. A step with a commit pending (R89, R110, R112, R114, R115, R117, R118, R128). -/

namespace Sys2Proof.Machine

theorem State.applyStep_views (d : Dir) (s : State) :
    (s.applyStep d).sample.views = [] ∧ (s.applyStep d).sample.reach = 0
      ∧ (s.applyStep d).sample.inSample = s.sample.inSample := ⟨rfl, rfl, s.applyStep_sample_inSample d⟩

theorem State.applyStep_waits (d : Dir) (s : State) : s.commitWaits (s.applyStep d) := by
  constructor <;> simp

section
variable {x : State} {c : Commit} {rft : Rft} {g : Rsc → Rsc}
  (hopen : x.sample.inSample = true) (hviews : x.sample.views = []) (hreach : x.sample.reach = 0)
  (hlocked : x.rft.sync.state = .locked) (hc : x.bsc.commit = some c) (hp : c.policy = .atPosition x.pcu.pos.angle)
  (hact : State.lockActs State.rftStep true rft g x)
include hopen hviews hreach hlocked hc hp hact

/-- An arrival before a loss: the views of the sample show the swap before the loss (R128, log 4). -/
theorem State.handStep_beforeLoss_views :
    (x.handStep .beforeLoss).viewAt 2 = { pos := x.pcu.pos, sync := .locked, generation := x.cts.generation }
      ∧ (x.handStep .beforeLoss).viewAt 1 =
        { pos := x.pcu.pos, sync := .locked, generation := x.cts.generation + 1 }
      ∧ (x.handStep .beforeLoss).sample.reach = 2 := by
  have heq : x.handStep .beforeLoss = (x.endSwapped c x.pcu.pos).rftDoes true rft g := by
    have harrive : x.bscArrive x.pcu.pos = x.endSwapped c x.pcu.pos := State.bscArrive_of_arrival hc hp
    rw [State.handStep, harrive, hact.acts (x.endSwapped c x.pcu.pos) ⟨rfl, rfl, rfl, rfl⟩]
    exact State.bscLeft_of_none rfl
  rw [heq]
  simp [State.rftDoes, State.endSwapped, State.swap, State.noteView, State.viewAt, State.viewNow, Cts.swap, hopen,
    hviews, hreach, hlocked]

/-- An arrival that the BSC takes once the RFT is LOST: the views show the loss before the swap (R128, log 4). -/
theorem State.handStep_afterRft_views :
    (x.handStep .afterRft).viewAt 2 = { pos := x.pcu.pos, sync := .locked, generation := x.cts.generation }
      ∧ (x.handStep .afterRft).viewAt 1 = { pos := x.pcu.pos, sync := .lost, generation := x.cts.generation }
      ∧ (x.handStep .afterRft).sample.reach = 2 := by
  have hlost : rft.sync.state = .lost := hact.state
  have heq : x.handStep .afterRft = (x.rftDoes true rft g).endSwapped c x.pcu.pos := by
    have harrive : x.rftStep.bscArrive x.pcu.pos = x.rftStep.endSwapped c x.pcu.pos :=
      State.bscArrive_of_arrival (hact.commit_eq hc) hp
    rw [State.handStep, harrive, hact.acts _ (.refl x)]
    exact State.bscLeft_of_none rfl
  rw [heq]
  simp [State.rftDoes, State.endSwapped, State.swap, State.noteView, State.viewAt, State.viewNow, hopen, hviews, hreach,
    hlocked, hlost]

end

/-- Settles O17. What the BSC makes of the pending commit by the turn of its arrival, on top of the RFT's part of the step,
which is one act whatever the turn. -/
theorem stepAtTheCommitPositionSwaps : Obligations.StepAtTheCommitPositionSwaps := by
  intro s d turn r c p lost hhigh hstep hsync hcommit hpos hlost
  obtain ⟨hviews, hreach, hopen'⟩ := s.applyStep_views d
  have hopen : (s.applyStep d).sample.inSample = true := hopen'.trans (State.inSample_of_stepDue hstep)
  have hrft : (s.applyStep d).rft = s.rft := s.applyStep_rft d
  have hsync' : (s.applyStep d).rft.sync = .locked r := by rw [hrft, hsync]
  have hc : (s.applyStep d).bsc.commit = some c := by simpa using hcommit
  have hwaits := s.applyStep_waits d
  obtain rfl : p = (s.applyStep d).pcu.pos := hpos
  obtain ⟨rft, g, hact⟩ := State.rftStep_lockActs hsync' (lost := lost) (by
    rw [hlost, hrft]
    simp only [State.indexMissing, hrft]
    exact ⟨fun ⟨hcheck, hlimit, ix, hix, hbeyond⟩ => ⟨hlimit, ix, hix, hcheck, hbeyond⟩,
      fun ⟨hlimit, ix, hix, hcheck, hbeyond⟩ => ⟨hcheck, hlimit, ix, hix, hbeyond⟩⟩)
  have hbsc := State.handStep_bscOnly turn (s.applyStep d)
  have hstate : (s.takeStep d turn).rft.sync.state = if lost then .lost else .locked := by
    rw [← hact.state, ← hact.rft_eq (.refl _)]
    exact congrArg (·.sync.state) hbsc.same.rft
  have hindex : (s.applyStep d).rftStep.bscLeft.indexFormed = true ↔
      ∃ rise, s.sample.z = some rise ∧ (rise = true ↔ d = .fwd) := by
    rw [← State.indexFormed_applyStep (State.inSample_of_stepDue hstep),
      State.indexFormed_congr (x := s.applyStep d) (by simp) ((State.bscLeft_found _).trans (State.rftStep_found _))]
  have hgeneration : (s.applyStep d).cts.generation = s.cts.generation := by simp
  refine ⟨s.takeStep d turn, exec_step (.take turn) hhigh hstep, s.takeStep_pcu d turn, s.takeStep_tsu d turn,
    by simp [State.takeStep], by simp [State.takeStep], by simp [State.takeStep], by simp [State.takeStep],
    by simp [State.takeStep], fun h => by simp [hstate, h], fun h => by simp [hstate, h],
    fun hp hturn => ?swapped, fun hp h hturn => ?beforeLoss, fun hp h hturn => ?afterRft, fun h hturn => ?abandoned,
    fun h hp => ?waits, fun h hp hturn hformed => ?kept⟩
  case swapped =>
    obtain ⟨hcommit', hcts, hinFlight, hwaiting, htev⟩ := hwaits.swapped (State.handStep_swapped (turn := turn) hc hact hp (by
      simpa only [← hindex, Bool.not_eq_true] using hturn))
    exact ⟨hcommit', congrArg Cts.active hcts, congrArg Cts.generation hcts, congrArg Cts.dirty hcts, hinFlight, hwaiting, htev⟩
  case beforeLoss =>
    subst h hturn
    rw [← hgeneration]
    exact State.handStep_beforeLoss_views hopen hviews hreach (by rw [hsync']; rfl) hc hp hact
  case afterRft =>
    subst h hturn
    rw [← hgeneration]
    exact State.handStep_afterRft_views hopen hviews hreach (by rw [hsync']; rfl) hc hp hact
  case abandoned =>
    obtain ⟨hcommit', hcts, hinFlight, hwaiting, htev⟩ := hwaits.abandoned (State.handStep_abandoned (turn := turn) hc hact h hturn)
    exact ⟨hcommit', hcts, hinFlight, hwaiting, htev⟩
  case waits =>
    obtain ⟨hcommit', hcts, hinFlight, hwaiting, htev, -⟩ := hwaits.trans (State.handStep_waits hc hact turn h hp)
    exact ⟨hcommit', hcts, hinFlight, hwaiting, htev⟩
  case kept =>
    subst hturn
    obtain ⟨hkept, harrival⟩ := State.handStep_keeps hc hact h hp (hindex.mpr hformed)
    obtain ⟨hcommit', hcts, hinFlight, hwaiting, htev, -⟩ := hwaits.trans hkept
    exact ⟨hcommit', hcts, hinFlight, hwaiting, htev, harrival⟩

end Sys2Proof.Machine
end

section
/-! SUPPORT. A quadrature error (R6, R30, R33, R117). -/

namespace Sys2Proof.Machine

/-! ## The RFT's part (R30) -/

section
variable {x : State}

theorem State.rftQuad_of_free (h : x.rft.sync = .free) : x.rftQuad = x := by
  rw [State.rftQuad, h]

theorem State.rftQuad_of_lost {r : RefRecord} (h : x.rft.sync = .lost r) : x.rftQuad = x := by
  rw [State.rftQuad, h]

theorem State.rftQuad_of_seeking {r : SeekRecord} (h : x.rft.sync = .seeking r) :
    x.rftQuad = x.failSeek r .failedQuad .quadError := by
  rw [State.rftQuad, h]

theorem State.rftQuad_of_locked {r : RefRecord} (h : x.rft.sync = .locked r) :
    x.rftQuad = x.changeSync (.lost r) .quadError := by
  rw [State.rftQuad, h]

theorem State.rftQuad_moved (x : State) : x.rftQuad.sample.moved = x.sample.moved := by
  unfold State.rftQuad
  split <;> rfl

end

/-! ## The event -/

/-- The part once the QDU has counted the error and the other blocks have taken it up. -/
def State.quadTaken (s : State) : State := { s.countQuad with sample := { s.sample with ab := none, ahead := false } }

/-- What the RFT leaves of a quadrature error for the BSC: with `eventFirst` the index event of the sample is gone. -/
def State.quadLeft (turn : LossTurn) (s : State) : State :=
  if turn = .eventFirst ∧ s.indexFormed = true then
    { s.quadTaken.rftQuad with sample := { s.quadTaken.rftQuad.sample with z := none } }
  else s.quadTaken.rftQuad

section
variable {s : State} (hdue : s.quadDue = true)
include hdue

theorem State.quadDue_iff_fields : s.sample.inSample = true ∧ s.sample.ab = some .error := by
  simpa [State.quadDue] using hdue

theorem State.quadTaken_indexFormed : s.quadTaken.indexFormed = s.indexFormed := by
  obtain ⟨hopen, hab⟩ := State.quadDue_iff_fields hdue
  have hstep : s.stepDue = none := by rw [State.stepDue, hab]
  have hstep' : s.quadTaken.stepDue = none := State.stepDue_of_taken rfl
  have hpcu : s.quadTaken.pcu = s.pcu := s.countQuad_pcu
  rw [State.indexFormed, State.indexFormed, State.indexDir, State.indexDir, hstep, hstep', hpcu]
  rfl

/-- The BSC's part comes on top of the RFT's. -/
theorem State.takeQuadError_bscOnly (turn : LossTurn) : (s.quadLeft turn).bscOnly (s.takeQuadError turn) := by
  have htaken : State.quadWithIndex s.quadTaken = if s.indexFormed then
      State.bscIndex { s.quadTaken.rftQuad with sample := { s.quadTaken.rftQuad.sample with z := none } }
      else s.quadTaken.rftQuad := by
    rw [State.quadWithIndex, State.quadTaken_indexFormed hdue]
  cases turn with
  | lossFirst => exact State.bscOnly.bscLeft _
  | eventFirst =>
    have hlast := State.bscOnly.bscLeft (State.quadWithIndex s.quadTaken)
    refine State.bscOnly.trans ?_ hlast
    rw [htaken]
    cases hindex : s.indexFormed with
    | true => simpa [State.quadLeft, hindex] using State.bscOnly.bscIndex _
    | false => simpa [State.quadLeft, hindex] using State.bscOnly.refl _

end

section
variable (turn : LossTurn) (s : State)

theorem State.quadLeft_rft : (s.quadLeft turn).rft = s.quadTaken.rftQuad.rft := by
  unfold State.quadLeft
  split <;> rfl

theorem State.quadLeft_rsc : (s.quadLeft turn).rsc = s.quadTaken.rftQuad.rsc := by
  unfold State.quadLeft
  split <;> rfl

theorem State.quadTaken_keeps : s.quadTaken.qdu = s.countQuad.qdu ∧ s.quadTaken.pcu = s.pcu ∧ s.quadTaken.rft = s.rft ∧ s.quadTaken.tsu = s.tsu
    ∧ s.quadTaken.cts = s.cts ∧ s.quadTaken.bsc = s.bsc ∧ s.quadTaken.tev = s.tev ∧ s.quadTaken.lcu = s.lcu
    ∧ s.quadTaken.lkp = s.lkp := by
  simp [State.quadTaken]

/-- What the RFT leaves alone at a quadrature error. -/
theorem State.quadLeft_keeps : (s.quadLeft turn).qdu = s.countQuad.qdu ∧ (s.quadLeft turn).pcu = s.pcu
    ∧ (s.quadLeft turn).tsu = s.tsu ∧ (s.quadLeft turn).cts = s.cts ∧ (s.quadLeft turn).bsc = s.bsc
    ∧ (s.quadLeft turn).tev = s.tev ∧ (s.quadLeft turn).lcu = s.lcu ∧ (s.quadLeft turn).lkp = s.lkp
    ∧ (s.quadLeft turn).sample.moved = s.sample.moved := by
  have hmoved : s.quadTaken.rftQuad.sample.moved = s.sample.moved := s.quadTaken.rftQuad_moved
  obtain ⟨hqdu, hpcu, -, htsu, hcts, hbsc, htev, hlcu, hlkp⟩ := s.quadTaken_keeps
  unfold State.quadLeft
  split <;> simp [hqdu, hpcu, htsu, hcts, hbsc, htev, hlcu, hlkp, hmoved]

theorem State.quadLeft_found : (s.quadLeft turn).sample.found = (s.sample.inSample, none,
    if turn = .eventFirst ∧ s.indexFormed = true then none else s.sample.z, s.sample.edges, s.sample.refEdges) := by
  have hfound : s.quadTaken.rftQuad.sample.found
      = (s.sample.inSample, none, s.sample.z, s.sample.edges, s.sample.refEdges) := s.quadTaken.rftQuad_found
  simp only [Sample.found, Prod.mk.injEq] at hfound
  obtain ⟨-, hab, hz, hedges, hrefEdges⟩ := hfound
  have hopen : s.quadTaken.sample.inSample = s.sample.inSample := rfl
  unfold State.quadLeft
  split <;> simp [Sample.found, hopen, hab, hz, hedges, hrefEdges]

end

theorem exec_quadError {s : State} (turn : QuadTurn) (hhigh : s.nrstLow = false) (h : s.quadDue = true) :
    exec (.quadError turn) s = .next (s.takeQuadTurn turn).settle :=
  live_of_due (p := State.quadDue) (f := fun s => (s.takeQuadTurn turn).settle) hhigh h

/-- Settles O18. The QDU's count is taken once; the RFT's part is by the sync state, and the BSC's comes on top of it. -/
theorem quadratureErrorFailsTheSeekOrLosesTheLock : Obligations.QuadratureErrorFailsTheSeekOrLosesTheLock := by
  intro s turn hhigh hdue
  obtain ⟨-, -, hrft, htsu, -⟩ := s.quadTaken_keeps
  obtain ⟨hqdu, hpcu, htsu', hcts, hbsc, htev, hlcu, hlkp, hmoved⟩ := s.quadLeft_keeps turn
  have hfound := s.quadLeft_found turn
  have honly := State.takeQuadError_bscOnly hdue turn
  have hfound' := honly.same.found.trans hfound
  simp only [Sample.found, Prod.mk.injEq] at hfound'
  obtain ⟨-, hab, hz, hedges, hrefEdges⟩ := hfound'
  have outcome : ∀ {rft : Rft} {rsc : Rsc}, s.quadTaken.rftQuad.rft = rft → s.quadTaken.rftQuad.rsc = rsc →
      (s.takeQuadError turn).rft = rft ∧ s.reportsAre (s.takeQuadError turn) rsc := fun hrft hrsc =>
    ⟨honly.same.rft.trans ((s.quadLeft_rft turn).trans hrft), hrsc ▸ s.quadLeft_rsc turn ▸ honly.reportsFrom hbsc⟩
  have hcounted : exec (.quadError .count) s = .next (s.takeQuadTurn .count) := by
    rw [exec_quadError .count hhigh hdue, State.settle_of_anyDue]
    have : (s.takeQuadTurn .count).quadDue = true := hdue
    simp [State.anyDue, this]
  refine ⟨s.takeQuadError turn, s.takeQuadTurn .count, exec_quadError (.take turn) hhigh hdue, fun hahead => ?_,
    fun hahead => ?_, hcounted, honly.qdu.trans hqdu, fun hsync => ?_, fun r hsync => ?_, fun r hsync => ?_,
    honly.same.pcu.trans hpcu, honly.same.tsu.trans htsu', honly.lcu.trans hlcu, honly.lkp.trans hlkp,
    htev ▸ (honly.tracksFrom hcts hbsc).1, (honly.tracksFrom hcts hbsc).2, hab, honly.moved.trans hmoved, hedges,
    hrefEdges, hz⟩
  · rw [← satInc_word]
    simp [State.takeQuadTurn, State.countQuad, hahead]
  · rw [State.takeQuadTurn, State.countQuad, if_pos hahead, ← hahead]
  · have hsame : s.quadTaken.rftQuad = s.quadTaken := by
      obtain hfree | ⟨r, hlost⟩ := hsync
      · exact State.rftQuad_of_free (hrft ▸ hfree)
      · exact State.rftQuad_of_lost (hrft ▸ hlost)
    exact outcome (by rw [hsame, hrft]) (by rw [hsame]; rfl)
  · have hact := State.rftQuad_of_seeking (x := s.quadTaken) (hrft ▸ hsync)
    rw [State.failSeek_eq, htsu, hrft] at hact
    exact outcome (congrArg State.rft hact) (congrArg State.rsc hact)
  · have hact := State.rftQuad_of_locked (x := s.quadTaken) (hrft ▸ hsync)
    rw [State.changeSync_eq, htsu, hrft] at hact
    exact outcome (congrArg State.rft hact) (congrArg State.rsc hact)

end Sys2Proof.Machine
end

section
/-! SUPPORT. An index event (R8, R16, R26, R27, R33 to R36, R38, R39, R111, R117, R118). -/

namespace Sys2Proof.Machine

/-! ## The event -/

/-- The sample once its index event, and the arrival kept for after it, have been taken up. -/
def State.indexTaken (s : State) : State := { s with sample := { s.sample with z := none, arrival := none } }

theorem exec_indexEvent {s : State} (turn : LossTurn) (hhigh : s.nrstLow = false) (h : s.indexDue = true) :
    exec (.indexEvent turn) s = .next (s.takeIndexEvent turn).settle :=
  live_of_due (p := State.indexDue) (f := fun s => (s.takeIndexEvent turn).settle) hhigh h

/-- The BSC's part comes on top of the RFT's. -/
theorem State.takeIndexEvent_bscOnly (turn : LossTurn) (s : State) :
    s.indexTaken.rftIndex.bscOnly (s.takeIndexEvent turn) := by
  cases turn with
  | eventFirst => exact ((State.bscOnly.bscIndex _).trans (.bscArriveKept _ _)).trans (.bscLeft _)
  | lossFirst => exact ((State.bscOnly.bscLeft _).trans (.bscIndex _)).trans (.bscArriveKept _ _)

theorem State.takeIndexEvent_sample (turn : LossTurn) (s : State) :
    (s.takeIndexEvent turn).sample.z = none ∧ (s.takeIndexEvent turn).sample.ab = s.sample.ab
      ∧ (s.takeIndexEvent turn).sample.edges = s.sample.edges
      ∧ (s.takeIndexEvent turn).sample.refEdges = s.sample.refEdges := by
  have hfound := s.takeIndexEvent_found turn
  simp only [Sample.found, Prod.mk.injEq] at hfound
  obtain ⟨-, hab, hz, hedges, hrefEdges⟩ := hfound
  exact ⟨hz, hab, hedges, hrefEdges⟩

/-! ## The RFT's part, one equation per case (R26, R34 to R36, R38) -/

section
variable {x : State}

theorem State.rftIndex_of_free (h : x.rft.sync = .free) : x.rftIndex = x := by
  rw [State.rftIndex, h]

theorem State.rftIndex_of_lost {r : RefRecord} (h : x.rft.sync = .lost r) : x.rftIndex = x := by
  rw [State.rftIndex, h]

theorem State.rftIndex_of_latchSeek {r : SeekRecord} {n : Fin 4} (h : x.rft.sync = .seeking r)
    (hsource : r.source = .latch n) : x.rftIndex = x := by
  simp [State.rftIndex, h, hsource]

theorem State.rftIndex_of_indexSeek {r : SeekRecord} (h : x.rft.sync = .seeking r) (hsource : r.source = .index) :
    x.rftIndex = x.lock r := by
  simp [State.rftIndex, h, hsource]

/-- In LOCKED the in-force set is loaded first (R39). -/
def State.checksLoaded (r : RefRecord) (x : State) : State :=
  { x with rft := { x.rft with inForce := x.rft.configured, sync := .locked (x.loadChecks r) } }

theorem State.rftIndex_of_locked {r : RefRecord} (h : x.rft.sync = .locked r) :
    x.rftIndex = State.indexLocked (x.loadChecks r) (x.checksLoaded r) := by
  rw [State.rftIndex, h]
  rfl

theorem State.loadChecks_eq (r : RefRecord) (x : State) : x.loadChecks r =
    { r with consec := if x.rft.inForce.check = true ∧ x.rft.configured.check = false then 0 else r.consec } := by
  unfold State.loadChecks
  by_cases h : x.rft.inForce.check = true ∧ x.rft.configured.check = false
  · simp [h]
  · rw [if_neg h, if_neg (by simpa using h)]

variable {r : RefRecord} {ix : IndexRef}

theorem State.indexLocked_of_noIndex (hindex : r.index = none) : x.indexLocked r =
    { x with rft := { x.rft with
        sync := .locked { r with index := some { pos := x.pcu.pos.angle, last := x.pcu.pos } } } } := by
  rw [State.indexLocked, hindex]

theorem State.indexLocked_of_unchecked (hindex : r.index = some ix) (hcheck : x.rft.inForce.check = false) :
    x.indexLocked r =
      { x with rft := { x.rft with sync := .locked { r with index := some { ix with last := x.pcu.pos } } } } := by
  rw [State.indexLocked, hindex]
  exact if_pos hcheck

variable {d : Int} (hindex : r.index = some ix) (hcheck : x.rft.inForce.check = true)
  (hd : d = signedDiff x.pcu.axis.cpr x.pcu.pos.angle ix.pos)
include hindex hcheck hd

theorem State.indexLocked_of_passes (hwithin : d.natAbs ≤ x.rft.inForce.tolerance)
    (hobserved : x.rft.inForce.policy = .observe ∨ d = 0) : x.indexLocked r =
      { x with rft := { x.rft with
          sync := .locked { r with consec := 0, lastD := some d, index := some { ix with last := x.pcu.pos } } } } := by
  subst hd
  rw [State.indexLocked, hindex]
  dsimp only
  rw [if_neg (by simp [hcheck]), if_pos hwithin, if_neg]
  rintro ⟨hcorrect, hne⟩
  exact hobserved.elim (fun h => by simp [h] at hcorrect) hne

theorem State.indexLocked_of_corrects (hwithin : d.natAbs ≤ x.rft.inForce.tolerance)
    (hcorrect : x.rft.inForce.policy = .correct) (hne : d ≠ 0) : x.indexLocked r =
      { x.noteView.noteMove with
        pcu := { x.pcu with pos := x.pcu.pos.correct x.pcu.axis.cpr d }
        tev := x.tev.clearMemories
        rft := { x.rft with sync := .locked { r with
          consec := 0, lastD := some d
          index := some { ix with last := x.pcu.pos.correct x.pcu.axis.cpr d } } } } := by
  subst hd
  rw [State.indexLocked, hindex]
  dsimp only
  rw [if_neg (by simp [hcheck]), if_pos hwithin, if_pos ⟨hcorrect, hne⟩]
  rfl

theorem State.indexLocked_of_beyond (hbeyond : x.rft.inForce.tolerance < d.natAbs) : x.indexLocked r =
    x.indexError .indexError { r with lastD := some d, index := some { ix with last := x.pcu.pos } } := by
  subst hd
  rw [State.indexLocked, hindex]
  dsimp only
  rw [if_neg (by simp [hcheck]), if_neg (Nat.not_le.mpr hbeyond)]

end

/-- Settles O19. With no commit pending the RFT's part is the whole event: a lock, or nothing. -/
theorem indexEventLocksAnIndexSeek : Obligations.IndexEventLocksAnIndexSeek := by
  intro s turn hhigh hdue hnone
  have honly := s.takeIndexEvent_bscOnly turn
  have hbsc : s.indexTaken.rftIndex.bsc = s.bsc := by simp [State.indexTaken]
  have hcts : s.indexTaken.rftIndex.cts = s.cts := by simp [State.indexTaken]
  obtain ⟨hz, hab, hedges, hrefEdges⟩ := s.takeIndexEvent_sample turn
  obtain ⟨htracks, hbsc'⟩ := honly.tracksFrom hcts hbsc
  obtain ⟨hcts', htev⟩ := htracks.resolve_right fun h => h.1 hnone
  have hrsc := (honly.idle (by rw [hbsc, hnone])).2
  have outcome : ∀ {z : State}, s.indexTaken.rftIndex = z → (s.takeIndexEvent turn).pcu = z.pcu
      ∧ (s.takeIndexEvent turn).rft = z.rft ∧ (s.takeIndexEvent turn).tev = z.tev
      ∧ (s.takeIndexEvent turn).rsc = z.rsc ∧ (s.takeIndexEvent turn).sample.moved = z.sample.moved := by
    rintro _ rfl
    exact ⟨honly.same.pcu, honly.same.rft, htev, hrsc, honly.moved⟩
  refine ⟨s.takeIndexEvent turn, exec_indexEvent turn hhigh hdue, fun r hsync hsource => ?locks, fun hsync => ?stays,
    honly.qdu.trans (by simp [State.indexTaken]), honly.same.tsu.trans (by simp [State.indexTaken]), hcts', hbsc' hnone,
    honly.lcu.trans (by simp [State.indexTaken]), honly.lkp.trans (by simp [State.indexTaken]), hz, hab, hedges, hrefEdges⟩
  case locks =>
    obtain ⟨hpcu, hrft, htev, hrsc, hmoved⟩ :=
      outcome (State.rftIndex_of_indexSeek (x := s.indexTaken) (r := r) hsync hsource)
    refine ⟨hpcu, hrft.trans ?_, htev, hmoved, hrsc⟩
    simp [State.lock, SeekRecord.lockRecord, hsource, State.indexTaken]
  case stays =>
    have hsame : s.indexTaken.rftIndex = s.indexTaken := by
      obtain hfree | ⟨r, hlost⟩ | ⟨r, n, hseeking, hsource⟩ := hsync
      · exact State.rftIndex_of_free hfree
      · exact State.rftIndex_of_lost hlost
      · exact State.rftIndex_of_latchSeek hseeking hsource
    exact outcome (z := s.indexTaken) hsame

/-- Settles O20. The RFT's part is one of the five outcomes in LOCKED; the rest is the BSC's. -/
theorem indexEventInLockLearnsChecksAndCorrects : Obligations.IndexEventInLockLearnsChecksAndCorrects := by
  rintro s turn r r0 _ d hhigh hdue hsync rfl hr0
  have honly := s.takeIndexEvent_bscOnly turn
  have hbsc : s.indexTaken.rftIndex.bsc = s.bsc := by simp [State.indexTaken]
  have hcts : s.indexTaken.rftIndex.cts = s.cts := by simp [State.indexTaken]
  obtain ⟨hz, hab, hedges, hrefEdges⟩ := s.takeIndexEvent_sample turn
  obtain ⟨htracks, hbsc'⟩ := honly.tracksFrom hcts hbsc
  have hreports := honly.reportsFrom hbsc
  obtain rfl : r0 = s.indexTaken.loadChecks r := hr0.trans (s.indexTaken.loadChecks_eq r).symm
  have hrftIndex := State.rftIndex_of_locked (x := s.indexTaken) (r := r) hsync
  have hindex0 : (s.indexTaken.loadChecks r).index = r.index := by rw [State.loadChecks_eq]
  have outcome : ∀ {z : State}, State.indexLocked (s.indexTaken.loadChecks r) (s.indexTaken.checksLoaded r) = z →
      (s.takeIndexEvent turn).rft.sync = z.rft.sync ∧ (s.takeIndexEvent turn).rft.cause = z.rft.cause
        ∧ (s.takeIndexEvent turn).pcu = z.pcu ∧ (s.takeIndexEvent turn).sample.moved = z.sample.moved ∧ s.reportsAre (s.takeIndexEvent turn) z.rsc
        ∧ s.tracksAre (s.takeIndexEvent turn) z.tev := by
    rintro _ rfl
    rw [← hrftIndex]
    exact ⟨congrArg Rft.sync honly.same.rft, congrArg Rft.cause honly.same.rft, honly.same.pcu, honly.moved, hreports, htracks⟩
  refine ⟨s.takeIndexEvent turn, exec_indexEvent turn hhigh hdue, ?_, ?_, fun hnone => ?learns,
    fun ix hix hcheck => ?unchecked, fun ix hix hcheck hd => ⟨fun hwithin hobserved => ?passes,
      fun hwithin hcorrect hne => ?corrects, fun hbeyond r' hr' => ?beyond⟩,
    honly.qdu.trans (by simp [State.indexTaken]), honly.same.tsu.trans (by simp [State.indexTaken]),
    honly.lcu.trans (by simp [State.indexTaken]), honly.lkp.trans (by simp [State.indexTaken]), hbsc',
    hz, hab, hedges, hrefEdges⟩
  · rw [honly.same.rft]
    simp [State.indexTaken]
  · rw [honly.same.rft, hrftIndex]
    simp [State.checksLoaded, State.indexTaken]
  case learns =>
    exact outcome (State.indexLocked_of_noIndex (hindex0.trans hnone))
  case unchecked =>
    exact outcome (State.indexLocked_of_unchecked (hindex0.trans hix) hcheck)
  case passes =>
    exact outcome (State.indexLocked_of_passes (hindex0.trans hix) hcheck hd hwithin hobserved)
  case corrects =>
    obtain ⟨hsync, hcause, hpcu, hmoved, hreports, htracks⟩ :=
      outcome (State.indexLocked_of_corrects (hindex0.trans hix) hcheck hd hwithin hcorrect hne)
    refine ⟨hpcu, hsync, hcause, ?_, htracks, hreports, hmoved⟩
    obtain ⟨-, htev⟩ | ⟨-, -, -, htev⟩ := htracks
    · exact htev
    · exact htev.trans s.tev.clearMemories_clearMemories
  case beyond =>
    subst hr'
    have hbeyond' := State.indexLocked_of_beyond (x := s.indexTaken.checksLoaded r) (hindex0.trans hix) hcheck hd hbeyond
    by_cases hlimit : s.rft.configured.limit ≤ (s.indexTaken.loadChecks r).consec + 1
    · obtain ⟨hsync, hcause, hpcu, hmoved, hreports, htracks⟩ := outcome (hbeyond'.trans (State.indexError_of_limit rfl hlimit))
      exact ⟨hpcu, htracks, hmoved, fun hbelow => absurd hbelow (Nat.not_lt.mpr hlimit),
        fun _ => ⟨hsync, hcause, hreports⟩⟩
    · obtain ⟨hsync, hcause, hpcu, hmoved, hreports, htracks⟩ :=
        outcome (hbeyond'.trans (State.indexError_of_below (Nat.not_le.mp hlimit)))
      exact ⟨hpcu, htracks, hmoved, fun _ => ⟨hsync, hcause, hreports⟩,
        fun h => absurd h hlimit⟩

end Sys2Proof.Machine
end

section
/-! SUPPORT. The field events that end the pending commit besides the step (R13, R89, R111, R112, R114 to R118). -/

namespace Sys2Proof.Machine

/-! ## What the BSC does with an index event and a kept arrival (R111, R118) -/

/-- Where the index event ends the commit `c`: at the position of the part, or at the arrival kept for after it. -/
def Commit.endsAt (pos : AbsPos) (kept : Option AbsPos) (c : Commit) : Option AbsPos :=
  match c.policy with
  | .atIndex => some pos
  | .atPosition q => kept.filter fun p => decide (q = p.angle)

section
variable {x : State} {c : Commit} {kept : Option AbsPos} (hc : x.bsc.commit = some c)
include hc

theorem State.bscIndexKept_swapped {p : AbsPos} (hends : c.endsAt x.pcu.pos kept = some p) :
    State.commitSwapped c p x (x.bscIndex.bscArriveKept kept) := by
  cases hpolicy : c.policy with
  | atIndex =>
    obtain rfl : x.pcu.pos = p := by simpa [Commit.endsAt, hpolicy] using hends
    have hswapped := State.bscIndex_of_atIndex hc hpolicy ▸ State.endSwapped_swapped c x.pcu.pos x
    exact hswapped.waits (.of_eq (State.bscArriveKept_of_none kept hswapped.commit))
  | atPosition q =>
    obtain ⟨hkept, hangle⟩ : kept = some p ∧ q = p.angle := by simpa [Commit.endsAt, hpolicy] using hends
    rw [State.bscIndex_of_atPosition hc hpolicy, hkept]
    exact State.bscArrive_swapped hc (by rw [hpolicy, hangle])

theorem State.bscIndexKept_same (hends : c.endsAt x.pcu.pos kept = none) :
    x.bscIndex.bscArriveKept kept = x := by
  cases hpolicy : c.policy with
  | atIndex => simp [Commit.endsAt, hpolicy] at hends
  | atPosition q =>
    rw [State.bscIndex_of_atPosition hc hpolicy]
    cases kept with
    | none => rfl
    | some p =>
      refine State.bscArrive_of_other hc fun harrives => ?_
      rw [hpolicy] at harrives
      simp [Commit.endsAt, hpolicy, CommitPolicy.atPosition.inj harrives] at hends

end

/-! ## The index event in LOCKED -/

section
variable {s : State} {r : RefRecord} {c : Commit}

/-- The position moves in a correction (R17). -/
theorem AbsPos.correct_ne {cpr : Nat} {d : Int} (p : AbsPos) (hd : d ≠ 0) : p.correct cpr d ≠ p := by
  intro h
  unfold AbsPos.correct at h
  dsimp only at h
  split_ifs at h with hneg hover
  · have hrev := congrArg AbsPos.rev h
    simp at hrev
  · have hrev := congrArg AbsPos.rev h
    simp at hrev
  · have hangle := congrArg AbsPos.angle h
    dsimp only at hangle
    omega

theorem State.indexError_state (k : FaultKind) {x : State} {r : RefRecord} (hlocked : x.rft.sync.state = .locked) :
    (x.indexError k r).rft.sync.state = .locked ∨ (x.indexError k r).rft.sync.state = .lost := by
  by_cases hlimit : x.rft.inForce.limit ≤ r.consec + 1
  · rw [State.indexError_of_limit hlocked hlimit]
    exact .inr rfl
  · rw [State.indexError_of_below (Nat.not_le.mp hlimit)]
    exact .inl rfl

/-- The RFT stays in LOCKED, where it may correct the position, which clears the memories; or it is LOST, and the position
and the tracks stay. -/
theorem State.rftIndex_inLock (hsync : s.rft.sync = .locked r) :
    (s.rftIndex.rft.sync.state = .locked ∧ s.rftIndex.tev =
        if s.rftIndex.pcu.pos = s.pcu.pos then s.tev else s.tev.clearMemories)
      ∨ (s.rftIndex.rft.sync.state = .lost ∧ s.rftIndex.tev = s.tev) := by
  rw [State.rftIndex_of_locked hsync]
  cases hindex : (s.loadChecks r).index with
  | none =>
    rw [State.indexLocked_of_noIndex hindex]
    exact .inl ⟨rfl, (if_pos rfl).symm⟩
  | some ix =>
    cases hcheck : s.rft.configured.check with
    | false =>
      rw [State.indexLocked_of_unchecked hindex hcheck]
      exact .inl ⟨rfl, (if_pos rfl).symm⟩
    | true =>
      by_cases hwithin : (signedDiff s.pcu.axis.cpr s.pcu.pos.angle ix.pos).natAbs ≤ s.rft.configured.tolerance
      · by_cases hmoves : s.rft.configured.policy = .correct ∧ signedDiff s.pcu.axis.cpr s.pcu.pos.angle ix.pos ≠ 0
        · rw [State.indexLocked_of_corrects (x := s.checksLoaded r) hindex hcheck rfl hwithin hmoves.1 hmoves.2]
          exact .inl ⟨rfl, (if_neg (AbsPos.correct_ne _ hmoves.2)).symm⟩
        · have hobserved : s.rft.configured.policy = .observe
              ∨ signedDiff s.pcu.axis.cpr s.pcu.pos.angle ix.pos = 0 := by
            cases hpolicy : s.rft.configured.policy with
            | observe => exact .inl rfl
            | correct => exact .inr (by_contra fun hne => hmoves ⟨hpolicy, hne⟩)
          rw [State.indexLocked_of_passes (x := s.checksLoaded r) hindex hcheck rfl hwithin hobserved]
          exact .inl ⟨rfl, (if_pos rfl).symm⟩
      · rw [State.indexLocked_of_beyond (x := s.checksLoaded r) hindex hcheck rfl (Nat.not_le.mp hwithin)]
        obtain hlocked | hlost := State.indexError_state .indexError (x := s.checksLoaded r) (r := { s.loadChecks r with
            lastD := some (signedDiff s.pcu.axis.cpr s.pcu.pos.angle ix.pos)
            index := some { ix with last := s.pcu.pos } }) rfl
        · exact .inl ⟨hlocked, (State.indexError_tev ..).trans (if_pos (congrArg Pcu.pos (State.indexError_pcu ..))).symm⟩
        · exact .inr ⟨hlost, State.indexError_tev ..⟩

/-- Apart from the memories, the RFT's part leaves the commit waiting. -/
theorem State.rftIndex_waits (hsync : s.rft.sync = .locked r) :
    State.commitWaits { s with tev := s.rftIndex.tev } s.rftIndex := by
  have hlocked := State.rftIndex_of_locked hsync
  refine ⟨by simp, by simp, ?_, ?_, rfl, by simp⟩ <;> rw [hlocked] <;> simp [State.checksLoaded]

end

/-! ## The commit at an index event, and at a quadrature error -/

section
variable {x : State} {c : Commit} {kept : Option AbsPos} (hc : x.bsc.commit = some c)
include hc

/-- The index event is taken before the loss, or there is none. -/
theorem State.indexTurn_swapped {p : AbsPos} (hends : c.endsAt x.pcu.pos kept = some p) :
    State.commitSwapped c p x (x.bscIndex.bscArriveKept kept).bscLeft
      ∧ (x.rft.sync.state = .locked → State.commitSwapped c p x (x.bscLeft.bscIndex.bscArriveKept kept)) := by
  have hswapped := State.bscIndexKept_swapped hc hends
  exact ⟨hswapped.waits (State.bscLeft_waits (.inr hswapped.commit)),
    fun hlocked => (State.bscLeft_of_locked hlocked).symm ▸ hswapped⟩

/-- The loss is taken with no end of the commit before it. -/
theorem State.indexTurn_abandoned (hlost : x.rft.sync.state ≠ .locked) :
    (c.endsAt x.pcu.pos kept = none → State.commitAbandoned c x (x.bscIndex.bscArriveKept kept).bscLeft)
      ∧ State.commitAbandoned c x (x.bscLeft.bscIndex.bscArriveKept kept) := by
  have habandoned := State.bscLeft_abandoned hlost hc
  refine ⟨fun hends => (State.bscIndexKept_same hc hends).symm ▸ habandoned, ?_⟩
  rw [State.bscIndex_of_none habandoned.commit]
  exact habandoned.waits (.of_eq (State.bscArriveKept_of_none kept habandoned.commit))

/-- The lock is kept, and the commit does not wait for this event. -/
theorem State.indexTurn_same (hlocked : x.rft.sync.state = .locked) (hends : c.endsAt x.pcu.pos kept = none) :
    (x.bscIndex.bscArriveKept kept).bscLeft = x ∧ x.bscLeft.bscIndex.bscArriveKept kept = x := by
  have hsame := State.bscIndexKept_same hc hends
  have hleft := State.bscLeft_of_locked hlocked
  exact ⟨by rw [hsame, hleft], by rw [hleft, hsame]⟩

end

/-- A quadrature error in LOCKED loses the lock (R30). -/
theorem State.rftQuad_lockActs {x : State} {r : RefRecord} (hsync : x.rft.sync = .locked r) :
    State.lockActs State.rftQuad true { x.rft with sync := .lost r, cause := .quadError }
      (Rsc.syncEvent .lost .quadError x.tsu.timebase) x :=
  ⟨rfl, fun _ => rfl, fun _ => rfl, fun y hy => by
    rw [State.rftQuad_of_locked (hy.rft ▸ hsync), State.changeSync_eq, hy.rft, hy.tsu]
    rfl⟩

/-- The commit pending at a quadrature error ends: by a swap where the index event of its sample, taken first, ends it, else
abandoned (R111, R114, R117). -/
theorem State.takeQuadError_ends {s : State} {r : RefRecord} {c : Commit} (turn : LossTurn) (hdue : s.quadDue = true)
    (hsync : s.rft.sync = .locked r) (hcommit : s.bsc.commit = some c) :
    (turn = .eventFirst ∧ s.indexFormed = true ∧ c.policy = .atIndex →
        State.commitSwapped c s.pcu.pos s (s.takeQuadError turn))
      ∧ (¬(turn = .eventFirst ∧ s.indexFormed = true ∧ c.policy = .atIndex) →
        State.commitAbandoned c s (s.takeQuadError turn)) := by
  obtain ⟨-, hpcu, hrft, htsu, hcts, hbsc, htev, -, -⟩ := s.quadTaken_keeps
  have hact := State.rftQuad_lockActs (x := s.quadTaken) (r := r) (hrft ▸ hsync)
  have hleft : s.commitWaits s.quadTaken.rftQuad :=
    State.commitWaits.trans ⟨by rw [hbsc], hcts, by simp [State.quadTaken], by simp [State.quadTaken], htev, by rw [htsu]⟩
      (hact.waits (.refl _))
  have hlost : s.quadTaken.rftQuad.rft.sync.state ≠ .locked := by
    rw [hact.rft_eq (.refl _), hact.state]
    exact SyncState.noConfusion
  have hc : s.quadTaken.rftQuad.bsc.commit = some c := hleft.commit.trans hcommit
  have habandoned : State.commitAbandoned c s s.quadTaken.rftQuad.bscLeft :=
    hleft.abandoned (State.bscLeft_abandoned hlost hc)
  cases turn with
  | lossFirst => exact ⟨fun h => by simp at h, fun _ => habandoned⟩
  | eventFirst =>
    have htaken : s.takeQuadError .eventFirst = (State.quadWithIndex s.quadTaken).bscLeft := rfl
    rw [htaken, State.quadWithIndex, State.quadTaken_indexFormed hdue]
    cases hindex : s.indexFormed with
    | false => exact ⟨fun h => by simp at h, fun _ => habandoned⟩
    | true =>
      rw [if_pos rfl]
      generalize hw : ({ s.quadTaken.rftQuad with
        sample := { s.quadTaken.rftQuad.sample with z := none } } : State) = w
      have hpos : w.pcu.pos = s.pcu.pos := by rw [← hw, State.rftQuad_pcu, hpcu]
      have hleft' : s.commitWaits w := hw ▸ hleft.trans ⟨rfl, rfl, rfl, rfl, rfl, rfl⟩
      have hlost' : w.rft.sync.state ≠ .locked := hw ▸ hlost
      have hc' : w.bsc.commit = some c := hleft'.commit.trans hcommit
      cases hpolicy : c.policy with
      | atIndex =>
        refine ⟨fun _ => ?_, fun h => absurd ⟨rfl, rfl, rfl⟩ h⟩
        rw [State.bscIndex_of_atIndex hc' hpolicy, ← hpos]
        have hswapped := hleft'.swapped (State.endSwapped_swapped c w.pcu.pos w)
        exact hswapped.waits (State.bscLeft_waits (.inr hswapped.commit))
      | atPosition q =>
        rw [State.bscIndex_of_atPosition hc' hpolicy]
        exact ⟨fun h => by simp at h, fun _ => hleft'.abandoned (State.bscLeft_abandoned hlost' hc')⟩

theorem Bsc.eq_of_ended {b b' : Bsc} (hcommit : b.commit = none) (hticket : b.nextTicket = b'.nextTicket) :
    b = { b' with commit := none } := by
  cases b
  simp_all

/-- Settles O22. The index event ends the commit where it waits for it or for the kept arrival, by its turn before the loss
or with the lock kept; the quadrature error takes the lock, after the index event of its sample or before it. -/
theorem fieldEventsEndThePendingCommit : Obligations.FieldEventsEndThePendingCommit := by
  refine ⟨fun s turn r c hhigh hdue hsync hcommit => ?index, fun s turn r c hhigh hdue hsync hcommit => ?quad⟩
  case index =>
    have honly := s.takeIndexEvent_bscOnly turn
    have hwaits := State.rftIndex_waits (s := s.indexTaken) (r := r) hsync
    have hstate := State.rftIndex_inLock (s := s.indexTaken) (r := r) hsync
    have hc : s.indexTaken.rftIndex.bsc.commit = some c := hwaits.commit.trans hcommit
    refine ⟨s.takeIndexEvent turn, exec_indexEvent turn hhigh hdue, by simp, by simp, ?_, ?_⟩
    · rw [honly.same.rft]
      exact hstate.imp And.left And.left
    rw [honly.same.rft, honly.same.pcu]
    intro at' hat
    obtain rfl : at' = c.endsAt s.indexTaken.rftIndex.pcu.pos s.sample.arrival := by
      rw [hat]
      cases hpolicy : c.policy <;> simp [Commit.endsAt, hpolicy]
    refine ⟨fun p hends hturn => ?swapped, fun hlost hturn => ?abandoned, fun hlocked hends => ?waits⟩
    case swapped =>
      obtain ⟨hfirst, hlocked⟩ := State.indexTurn_swapped hc hends
      have hswapped : State.commitSwapped c p s.indexTaken.rftIndex (s.takeIndexEvent turn) := by
        cases turn with
        | eventFirst => exact hfirst
        | lossFirst => exact hlocked (hturn.resolve_left (by simp))
      obtain ⟨hcommit', hcts, hinFlight, hwaiting, htev⟩ := hwaits.swapped hswapped
      refine ⟨hcommit', congrArg Cts.active hcts, congrArg Cts.generation hcts, congrArg Cts.dirty hcts, hinFlight, hwaiting,
        htev.trans ?_⟩
      obtain ⟨-, htev'⟩ | ⟨-, htev'⟩ := hstate
      · show s.indexTaken.rftIndex.tev.clearMemories = _
        rw [htev', apply_ite Tev.clearMemories, Tev.clearMemories_clearMemories, ite_self]
        rfl
      · exact congrArg Tev.clearMemories htev'
    case abandoned =>
      obtain ⟨hfirst, hlast⟩ := State.indexTurn_abandoned hc (kept := s.sample.arrival) (by rw [hlost]; exact SyncState.noConfusion)
      have habandoned : State.commitAbandoned c s.indexTaken.rftIndex (s.takeIndexEvent turn) := by
        cases turn with
        | eventFirst => exact hfirst (hturn.resolve_right (by simp))
        | lossFirst => exact hlast
      obtain ⟨hcommit', hcts, hinFlight, hwaiting, htev⟩ := hwaits.abandoned habandoned
      obtain ⟨hlocked, -⟩ | ⟨-, htev'⟩ := hstate
      · simp [hlost] at hlocked
      · exact ⟨hcommit', hcts, hinFlight, hwaiting, htev.trans htev'⟩
    case waits =>
      have hsame : s.takeIndexEvent turn = s.indexTaken.rftIndex := by
        obtain ⟨hfirst, hlast⟩ := State.indexTurn_same hc hlocked hends
        cases turn with
        | eventFirst => exact hfirst
        | lossFirst => exact hlast
      obtain ⟨-, htev⟩ | ⟨hlost, -⟩ := hstate
      · rw [hsame]
        exact ⟨hc, hwaits.cts, hwaits.inFlight, hwaits.waiting, htev⟩
      · simp [hlost] at hlocked
  case quad =>
    have honly := State.takeQuadError_bscOnly hdue turn
    obtain ⟨-, -, hrft, htsu, -⟩ := s.quadTaken_keeps
    have hlost : s.quadTaken.rftQuad.rft = { s.rft with sync := .lost r, cause := .quadError } := by
      rw [(State.rftQuad_lockActs (x := s.quadTaken) (r := r) (hrft ▸ hsync)).rft_eq (.refl _), hrft]
    obtain ⟨hswapped, habandoned⟩ := State.takeQuadError_ends turn hdue hsync hcommit
    have hended : (s.takeQuadError turn).bsc.commit = none
        ∧ (s.takeQuadError turn).rsc.inFlight = s.rsc.inFlight - 1 := by
      by_cases hends : turn = .eventFirst ∧ s.indexFormed = true ∧ c.policy = .atIndex
      · exact ⟨(hswapped hends).commit, (hswapped hends).inFlight⟩
      · have := habandoned hends
        exact ⟨this.commit, this.inFlight⟩
    refine ⟨s.takeQuadError turn, exec_quadError (.take turn) hhigh hdue,
      honly.same.rft.trans ((s.quadLeft_rft turn).trans hlost), ?_, by simp, hended.2, fun hturn hindex hpolicy => ?_,
      fun hturn => ?_, ?_⟩
    · exact Bsc.eq_of_ended hended.1 (by simp)
    · obtain ⟨-, hcts, -, hwaiting, htev⟩ := hswapped ⟨hturn, hindex, hpolicy⟩
      exact ⟨congrArg Cts.active hcts, congrArg Cts.generation hcts, hwaiting, htev⟩
    · obtain ⟨-, hcts, -, hwaiting, htev⟩ := habandoned (by
        rintro ⟨hfirst, hindex, hpolicy⟩
        obtain h | h | ⟨q, h⟩ := hturn
        · simp [h] at hfirst
        · simp [h] at hindex
        · simp [h] at hpolicy)
      exact ⟨hcts, hwaiting, htev⟩
    · have hfound := honly.same.found.trans (s.quadLeft_found turn)
      simp only [Sample.found, Prod.mk.injEq] at hfound
      exact hfound.2.2.1

end Sys2Proof.Machine
end

section
/-! SUPPORT. A latch edge, taken by the RFT and by the LCU (R12, R16, R26, R27, R33, R122, R124 to R131). -/

namespace Sys2Proof.Machine

/-! ## The LCU's act (R124 to R126, R129 to R131) -/

theorem EdgeSel.selects_iff (e : EdgeSel) (k : EdgeKind) :
    e.selects k = true ↔ (e = .rise ∧ k = .rise) ∨ (e = .fall ∧ k = .fall) ∨ e = .both := by
  cases e <;> cases k <;> simp [EdgeSel.selects]

section
variable {l : Latch} {now : Word32} {k : EdgeKind}

theorem Latch.action_of_ignored (h : l.arm ≠ .armed ∨ l.edge.selects k = false) : l.action now k = .ignore := by
  unfold Latch.action
  cases harm : l.arm with
  | off => rfl
  | spent => rfl
  | armed => simp [h.resolve_left (not_not.mpr harm)]

theorem Latch.action_of_suppressed {since : Word32} (harm : l.arm = .armed) (hsel : l.edge.selects k = true)
    (hholdoff : l.holdoff = some since) (hrunning : (now - since).toNat < l.holdoffUs * 10) :
    l.action now k = .suppress := by
  simp [Latch.action, harm, hsel, Latch.holdoffRunning, hholdoff, elapsed, hrunning, -BitVec.toNat_sub]

theorem Latch.action_of_accepted (harm : l.arm = .armed) (hsel : l.edge.selects k = true)
    (hover : ∀ since, l.holdoff = some since → l.holdoffUs * 10 ≤ (now - since).toNat) :
    l.action now k = .capture := by
  have hstopped : l.holdoffRunning now = false := by
    cases hholdoff : l.holdoff with
    | none => simp [Latch.holdoffRunning, hholdoff]
    | some since =>
      rw [Latch.holdoffRunning, hholdoff]
      exact decide_eq_false (Nat.not_lt.mpr (hover since hholdoff))
  simp [Latch.action, harm, hsel, hstopped]

theorem Latch.accept_of_armed (harm : l.arm = .armed) : l.accept now = { l with
    holdoff := if l.holdoffUs = 0 then none else some now
    arm := if l.mode = .single then .spent else .armed } := by
  cases hmode : l.mode <;> simp [Latch.accept, hmode, harm]

end

section
variable {c : Lcu} {n : Fin 4} {k : EdgeKind} {now : Word32} (v : View)

theorem Lcu.takeEdge_of_ignored (h : (c.latches.get n).action now k = .ignore) : c.takeEdge n k now v = c := by
  simp [Lcu.takeEdge, h]

theorem Lcu.takeEdge_of_suppressed (h : (c.latches.get n).action now k = .suppress) : c.takeEdge n k now v =
    { c with latches := c.latches.set n {
        c.latches.get n with suppressed := satInc (c.latches.get n).suppressed } } := by
  simp [Lcu.takeEdge, h]

theorem Lcu.takeEdge_of_stored (h : (c.latches.get n).action now k = .capture) (hroom : c.queue.length < 32) :
    c.takeEdge n k now v =
      { latches := c.latches.set n ((c.latches.get n).accept now), queue := c.queue ++ [c.record n k now v], tally := 0 } := by
  simp [Lcu.takeEdge, h, Lcu.hasRoom, hroom]

theorem Lcu.takeEdge_of_lost (h : (c.latches.get n).action now k = .capture) (hfull : 32 ≤ c.queue.length) :
    c.takeEdge n k now v =
      { c with
        latches := c.latches.set n {
          (c.latches.get n).accept now with lost := satInc (c.latches.get n).lost }
        tally := satInc c.tally } := by
  simp [Lcu.takeEdge, h, Lcu.hasRoom, hfull]

theorem Lcu.captures_iff : c.captures n k now = true ↔ (c.latches.get n).action now k = .capture := decide_eq_true_iff

theorem Lcu.losesEdge_of_room (hroom : c.queue.length < 32) : c.losesEdge n k now = false := by
  simp [Lcu.losesEdge, Lcu.hasRoom, hroom]

theorem Lcu.losesEdge_of_full (h : (c.latches.get n).action now k = .capture) (hfull : 32 ≤ c.queue.length) :
    c.losesEdge n k now = true := by
  simp [Lcu.losesEdge, Lcu.captures, h, Lcu.hasRoom, hfull]

theorem Lcu.losesEdge_of_noCapture (h : (c.latches.get n).action now k ≠ .capture) : c.losesEdge n k now = false := by
  simp [Lcu.losesEdge, Lcu.captures, h]

end

theorem State.takeLcuEdge_of_edge {s : State} {n : Fin 4} {k : EdgeKind} (back : Nat) (h : s.sample.edges.get n = some k) :
    s.takeLcuEdge n back = { s with
      lcu := s.lcu.takeEdge n k s.tsu.timebase (s.viewAt (s.captureBack back))
      rsc := if s.lcu.losesEdge n k s.tsu.timebase then s.rsc.addFault .captureLost else s.rsc
      sample := { s.sample with
        edges := s.sample.edges.set n none
        reach := if s.lcu.captures n k s.tsu.timebase then s.captureBack back else s.sample.reach } } := by
  rw [State.takeLcuEdge, h]
  rfl

/-! ## The RFT's act (R16, R26, R27) -/

/-- The RFT's part of latch `n`'s edge is no longer to be taken. -/
def State.refTaken (n : Fin 4) (s : State) : State :=
  { s with sample := { s.sample with refEdges := s.sample.refEdges.set n none } }

/-- The edge of latch `n` that the RFT has still to take is the reference event of a seek (R26). -/
def State.refLocks (n : Fin 4) (s : State) : Prop :=
  ∃ r k, s.rft.sync = .seeking r ∧ r.source = .latch n ∧ s.sample.refEdges.get n = some k
    ∧ (r.edgeCode = 3 ∨ (r.edgeCode = 1 ∧ k = .rise) ∨ (r.edgeCode = 2 ∧ k = .fall))

section
variable {s : State} {n : Fin 4}

theorem State.takeRefEdge_of_lock {r : SeekRecord} {k : EdgeKind} (hopen : s.sample.inSample = true)
    (hsync : s.rft.sync = .seeking r) (hsource : r.source = .latch n) (hedge : s.sample.refEdges.get n = some k)
    (hsel : r.edgeCode = 3 ∨ (r.edgeCode = 1 ∧ k = .rise) ∨ (r.edgeCode = 2 ∧ k = .fall)) :
    s.takeRefEdge n = (s.refTaken n).lock r := by
  have hdue : s.referenceEventDue r = true := (State.referenceEventDue_iff hopen r).mpr (.inr ⟨n, k, hsource, hedge, hsel⟩)
  rw [State.takeRefEdge, hsync]
  exact if_pos ⟨hsource, hdue⟩

theorem State.takeRefEdge_of_noLock (h : ¬s.refLocks n) : s.takeRefEdge n = s.refTaken n := by
  unfold State.takeRefEdge
  cases hsync : s.rft.sync with
  | free => rfl
  | locked r => rfl
  | lost r => rfl
  | seeking r =>
    refine if_neg fun ⟨hsource, hdue⟩ => h ?_
    cases hedge : s.sample.refEdges.get n with
    | none => simp [State.referenceEventDue, hsource, hedge] at hdue
    | some k =>
      have hsel : edgeCodeSelects r.edgeCode k = true := by
        simp only [State.referenceEventDue, hsource, hedge, Bool.and_eq_true] at hdue
        exact hdue.2
      exact ⟨r, k, hsync, hsource, hedge, (edgeCodeSelects_iff _ _).mp hsel⟩

/-! ## The turn of an edge (R12, R129) -/

theorem firstLatch_of_first {p : Fin 4 → Bool} {i n : Fin 4} (hi : p i = true) (hbefore : ∀ m, m < i → p m = false) :
    some i = some n ↔ p n = true ∧ ∀ m, m < n → p m = false := by
  constructor
  · rintro ⟨rfl⟩
    exact ⟨hi, hbefore⟩
  · rintro ⟨hn, hbefore'⟩
    obtain hlt | rfl | hlt := lt_trichotomy i n
    · simp [hbefore' i hlt] at hi
    · rfl
    · simp [hbefore n hlt] at hn

theorem firstLatch_eq_some_iff (p : Fin 4 → Bool) (n : Fin 4) :
    firstLatch p = some n ↔ p n = true ∧ ∀ m, m < n → p m = false := by
  unfold firstLatch
  split_ifs with h0 h1 h2 h3
  · exact firstLatch_of_first h0 fun m hm => absurd hm (Fin.not_lt_zero m)
  · exact firstLatch_of_first h1 fun m hm => by fin_cases m <;> simp_all
  · exact firstLatch_of_first h2 fun m hm => by fin_cases m <;> simp_all
  · exact firstLatch_of_first h3 fun m hm => by fin_cases m <;> simp_all
  · fin_cases n <;> simp_all

theorem State.lowestEdge_eq_some_iff : s.lowestEdge = some n ↔
    (s.sample.edges.get n).isSome = true ∧ ∀ m : Fin 4, m < n → s.sample.edges.get m = none := by
  have hlowest : s.lowestEdge = firstLatch fun m => (s.sample.edges.get m).isSome := rfl
  rw [hlowest, firstLatch_eq_some_iff]
  simp

theorem State.edgeDue_eq_some_iff : s.edgeDue = some n ↔
    s.sample.inSample = true ∧ s.stepDue = none ∧ (s.sample.edges.get n).isSome = true
      ∧ ∀ m : Fin 4, m < n → s.sample.edges.get m = none := by
  rw [← State.lowestEdge_eq_some_iff, State.edgeDue]
  by_cases h : s.sample.inSample = true ∧ s.stepDue = none
  · simp [h]
  · rw [if_neg (by simpa using h)]
    simpa using fun hopen hstep => absurd ⟨hopen, hstep⟩ h

end

/-! ## The views (R128, log 4) -/

theorem State.viewAt_succ {s : State} {i : Nat} {v : View} (h : s.sample.views[i]? = some v) : s.viewAt (i + 1) = v := by
  unfold State.viewAt
  split
  next hnil => simp [hnil] at h
  next => simp [h]

theorem State.viewAt_beyond {s : State} {i : Nat} (h : s.sample.views.length < i) : s.viewAt i = s.viewAt 0 := by
  unfold State.viewAt
  split
  · rfl
  · simp [h]

end Sys2Proof.Machine
end

section
/-! SUPPORT. LATCH_EDGE (R26, R27, R122 to R131). -/

namespace Sys2Proof.Machine

theorem exec_latchEdge {s : State} {n : Fin 4} {turn : EdgeTurn} (hhigh : s.nrstLow = false)
    (h : s.latchTurn n turn = true) : exec (.latchEdge n turn) s = .next (s.takeLatchEdge n turn).settle :=
  live_of_due (p := State.latchTurn n turn) (f := fun s => (s.takeLatchEdge n turn).settle) hhigh h

/-- An edge whose turn has not come is left. -/
theorem exec_latchEdge_of_notDue {s : State} {n : Fin 4} {turn : EdgeTurn} (h : s.latchTurn n turn = false) :
    exec (.latchEdge n turn) s = .next s :=
  live_of_fixed (if_neg (by simp [h]))

/-- What the LCU makes of the edge does not depend on the RFT's part, where it locks no seek. -/
theorem State.takeLatchEdge_of_noLock {s : State} {n : Fin 4} {view : Nat} {turn : EdgeTurn} {k : EdgeKind}
    (hedge : s.sample.edges.get n = some k) (hturn : turn = .lcu view ∨ (turn = .both view ∧ ¬s.refLocks n)) :
    s.takeLatchEdge n turn = { s with
      lcu := s.lcu.takeEdge n k s.tsu.timebase (s.viewAt (min view s.sample.reach))
      rsc := if s.lcu.losesEdge n k s.tsu.timebase then s.rsc.addFault .captureLost else s.rsc
      sample := { s.sample with
        edges := s.sample.edges.set n none
        refEdges := if turn = .lcu view then s.sample.refEdges else s.sample.refEdges.set n none
        reach := if s.lcu.captures n k s.tsu.timebase then min view s.sample.reach else s.sample.reach } } := by
  obtain rfl | ⟨rfl, hnoLock⟩ := hturn
  · exact (State.takeLcuEdge_of_edge view hedge).trans (by simp [State.captureBack])
  · rw [State.takeLatchEdge, State.takeRefEdge_of_noLock hnoLock]
    exact (State.takeLcuEdge_of_edge (s := s.refTaken n) view hedge).trans rfl

/-- Settles O23. The edge is ignored, suppressed, or a capture, by the table of R124; a capture reads the view named, and is
stored or lost by the room in the queue. -/
theorem latchEdgesAreCapturedSuppressedOrLost : Obligations.LatchEdgesAreCapturedSuppressedOrLost := by
  simp only [Obligations.LatchEdgesAreCapturedSuppressedOrLost, ← satInc_word, ← satInc_byte]
  refine ⟨?edge, fun s => ⟨s.viewAt_zero, fun i x => State.viewAt_succ, fun i => State.viewAt_beyond⟩,
    fun s n => ⟨State.edgeDue_eq_some_iff, fun hdue view => ⟨?_, ?_⟩⟩⟩
  case edge =>
    rintro s n view turn k _ _ sel hhigh hdue hedge rfl rfl hsel hturn
    obtain rfl : sel = (s.lcu.latches.get n).edge.selects k := by
      rw [Bool.eq_iff_iff, hsel, EdgeSel.selects_iff]
    have hdue' : s.latchTurn n turn = true := by
      obtain rfl | ⟨rfl, -⟩ := hturn <;> exact decide_eq_true hdue
    have htaken := State.takeLatchEdge_of_noLock (view := view) (turn := turn) hedge (hturn.imp_right fun ⟨hboth, hno⟩ =>
      ⟨hboth, fun ⟨r, k', hsync, hsource, hedge', hsel'⟩ => hno r k' hsync hsource hedge' hsel'⟩)
    refine ⟨s.takeLatchEdge n turn, exec_latchEdge hhigh hdue', ?_⟩
    rw [htaken]
    refine ⟨fun hignored => ?_, fun since harm hsel hholdoff hrunning => ?_,
      fun harm hsel hover l' hl' => ⟨?_, fun hroom => ?_, fun hfull => ?_⟩,
      rfl, rfl, rfl, rfl, rfl, rfl, rfl, rfl, rfl, rfl, rfl, rfl, rfl, rfl⟩
    · have haction := Latch.action_of_ignored (now := s.tsu.timebase) hignored
      simp [Lcu.takeEdge_of_ignored _ haction, Lcu.losesEdge, Lcu.captures, haction]
    · have haction := Latch.action_of_suppressed harm hsel hholdoff hrunning
      simp [Lcu.takeEdge_of_suppressed _ haction, Lcu.losesEdge, Lcu.captures, haction]
    · have haction := Latch.action_of_accepted harm hsel hover
      simp [Lcu.captures, haction]
    · have haction := Latch.action_of_accepted harm hsel hover
      rw [Lcu.takeEdge_of_stored _ haction hroom, Lcu.losesEdge_of_room hroom, Latch.accept_of_armed harm, ← hl']
      exact ⟨rfl, rfl⟩
    · have haction := Latch.action_of_accepted harm hsel hover
      rw [Lcu.takeEdge_of_lost _ haction hfull, Lcu.losesEdge_of_full haction hfull, Latch.accept_of_armed harm, ← hl']
      exact ⟨rfl, rfl⟩
  · exact exec_latchEdge_of_notDue (decide_eq_false hdue)
  · exact exec_latchEdge_of_notDue (decide_eq_false hdue)

/-! ## The reference event of a latch seek (R16, R26, R27, R33) -/

/-- The state after a lock by latch `n`, with the RFT's part of its edge taken. -/
def State.latchLocked (r : SeekRecord) (n : Fin 4) (s : State) : State :=
  { s with
    pcu := { s.pcu with pos := { rev := 0, angle := r.refValue } }
    tev := s.tev.clearMemories
    rft := { s.rft with
      sync := .locked
        { source := .latch n, refValue := r.refValue, lockedAt := s.tsu.timebase, index := none, consec := 0
          lastD := none }
      cause := .reference, inForce := s.rft.configured }
    rsc := (s.rsc.syncEvent .locked .reference s.tsu.timebase).complete
      { ticket := r.ticket, op := .seek, outcome := .locked, time := s.tsu.timebase
        pos := some { rev := 0, angle := r.refValue }, generation := none }
    sample := { s.sample with
      refEdges := s.sample.refEdges.set n none, moved := true, reach := s.sample.reach + 1
      views := { pos := s.pcu.pos, sync := .seeking, generation := s.cts.generation } :: s.sample.views } }

theorem State.lock_of_latch {s : State} {r : SeekRecord} {n : Fin 4} (hopen : s.sample.inSample = true)
    (hsync : s.rft.sync = .seeking r) (hsource : r.source = .latch n) : (s.refTaken n).lock r = s.latchLocked r n := by
  simp [State.lock, State.latchLocked, State.refTaken, State.noteView, State.noteMove, State.viewNow,
    SeekRecord.lockRecord, hopen, hsync, hsource, Sync.state]

/-- Settles O24. The edge that the seek waits for locks; taken with it, the LCU's part is that of the state after the lock.
Any other edge is only no longer to be taken, and an edge whose turn has not come is left. -/
theorem latchEdgeLocksALatchSeek : Obligations.LatchEdgeLocksALatchSeek := by
  refine ⟨?lock, fun s n k hhigh hopen hstep hedge hno => ?other, fun s n hclosed => ?left⟩
  case lock =>
    rintro s _ n turn k r _ hhigh hopen hstep hsync hsource hedge hsel hturn rfl rfl
    have hlock := (State.takeRefEdge_of_lock hopen hsync hsource hedge hsel).trans (State.lock_of_latch hopen hsync hsource)
    obtain rfl | ⟨hdue, view, rfl⟩ := hturn
    · have hdue : s.latchTurn n .rft = true := by simp [State.latchTurn, State.refDue, hopen, hstep, hedge]
      refine ⟨s.takeLatchEdge n .rft, exec_latchEdge hhigh hdue, ?_⟩
      rw [State.takeLatchEdge, hlock]
      exact ⟨rfl, rfl, rfl, fun _ => ⟨rfl, rfl, rfl⟩, fun view k' v hturn => by simp at hturn, rfl, rfl, rfl, rfl, rfl,
        rfl, rfl, rfl, rfl, rfl⟩
    · obtain ⟨-, -, hsome, -⟩ := State.edgeDue_eq_some_iff.mp hdue
      obtain ⟨k', hedge'⟩ := Option.isSome_iff_exists.mp hsome
      refine ⟨s.takeLatchEdge n (.both view), exec_latchEdge hhigh (decide_eq_true hdue), ?_⟩
      rw [State.takeLatchEdge, hlock, State.takeLcuEdge_of_edge (s := s.latchLocked r n) view (k := k') hedge']
      refine ⟨rfl, rfl, rfl, fun hturn => by simp at hturn, fun view' k'' v hturn hk hv => ?_, rfl, rfl, rfl, rfl, rfl,
        rfl, rfl, rfl, rfl, rfl⟩
      obtain rfl := EdgeTurn.both.inj hturn
      obtain rfl : k' = k'' := Option.some.inj (hedge'.symm.trans hk)
      refine ⟨?_, rfl, rfl, fun h => ?_, fun h => ?_⟩
      · rw [hv]
        rfl
      · rw [hv, h, Nat.zero_min, State.viewAt_zero]
        rfl
      · have hone : min 1 (s.sample.reach + 1) = 0 + 1 := by omega
        rw [hv, h, hone]
        exact State.viewAt_succ rfl
  case other =>
    have hdue : s.latchTurn n .rft = true := by simp [State.latchTurn, State.refDue, hopen, hstep, hedge]
    rw [exec_latchEdge hhigh hdue, State.takeLatchEdge, State.takeRefEdge_of_noLock]
    · rfl
    · rintro ⟨r, k', hsync, hsource, hedge', hsel⟩
      obtain rfl : k = k' := Option.some.inj (hedge.symm.trans hedge')
      exact hno r hsync hsource hsel
  case left =>
    refine exec_latchEdge_of_notDue ?_
    simp only [State.latchTurn, State.refDue]
    obtain h | h | h := hclosed
    · simp [h]
    · simp [Option.isNone_iff_eq_none, h]
    · simp [h]

end Sys2Proof.Machine
end

section
/-! SUPPORT. The end of a sample, and catching up within it (R9, R12, R48, R52, R83, R97). -/

namespace Sys2Proof.Machine

/-! ## Draining -/

section
variable {next : State → Option FieldEvent} {s : State}

theorem State.drainBy_of_none (n : Nat) (h : next s = none) : State.drainBy next n s = s := by
  cases n with
  | zero => rfl
  | succ n => rw [State.drainBy, h]

theorem State.drainBy_succ {e : FieldEvent} (n : Nat) (h : next s = some e) :
    State.drainBy next (n + 1) s = State.drainBy next n (s.takeEvent e) := by
  rw [State.drainBy, h]

/-- Draining is over with the event after which none is next. -/
theorem State.drainBy_last {e : FieldEvent} (n : Nat) (h : next s = some e) (hlast : next (s.takeEvent e) = none) :
    State.drainBy next (n + 1) s = s.takeEvent e := by
  rw [State.drainBy_succ n h, State.drainBy_of_none n hlast]

end

theorem State.nextEvent_of_anyDue {s : State} (h : s.anyDue = false) : s.nextEvent = none := by
  cases he : s.nextEvent with
  | none => rfl
  | some e => simp [State.anyDue_of_next s e he] at h

theorem State.settle_of_open {s : State} (hopen : s.sample.inSample = true) (h : s.anyDue = false) :
    s.settle = s.endSample := if_pos (by simp [hopen, h])

theorem State.settle_of_unsettled {s : State} (h : s.sample.inSample = false ∨ s.anyDue = true) : s.settle = s :=
  if_neg (by obtain h | h := h <;> simp [h])

theorem State.closeSample_of_open {s : State} (h : s.sample.inSample = true) :
    s.closeSample = (State.drain maxSampleEvents s).endSample := if_pos h

theorem State.drain_anyDue (s : State) : (State.drain maxSampleEvents s).anyDue = false :=
  State.drain_anyDue_of_work maxSampleEvents s (Nat.lt_succ_of_le s.work_le)

/-- Draining runs the rows of the events it takes, up to the evaluation that the last of them brings and to the counter of
the free values. -/
theorem State.drain_runs (n f : Nat) (s : State) (hhigh : s.nrstLow = false) :
    ∃ (cs : List Instr) (t : State), (∀ c ∈ cs, takesEvent c) ∧ runs cs (s.withFree f) t
      ∧ t.settle = State.withFree f (State.drain n s).settle := by
  induction n generalizing s with
  | zero => exact ⟨[], s.withFree f, by simp, rfl, State.settle_withFree f s⟩
  | succ n ih =>
    cases he : s.nextEvent with
    | none =>
      rw [State.drain, State.drainBy_of_none _ he]
      exact ⟨[], s.withFree f, by simp, rfl, State.settle_withFree f s⟩
    | some e =>
      obtain ⟨c, hc, hrow⟩ := s.takeEvent_row e hhigh he f
      rw [State.drain, State.drainBy_succ n he]
      rw [State.settle_withFree] at hrow
      cases hdue : (s.takeEvent e).anyDue with
      | true =>
        rw [State.settle_of_anyDue _ hdue] at hrow
        obtain ⟨cs, t, hcs, hruns, ht⟩ := ih (s.takeEvent e) (by simpa using hhigh)
        exact ⟨c :: cs, t, by simpa using ⟨hc, hcs⟩, ⟨_, hrow, hruns⟩, ht⟩
      | false =>
        rw [State.drainBy_of_none n (State.nextEvent_of_anyDue hdue)]
        refine ⟨[c], _, by simpa using hc, ⟨_, hrow, rfl⟩, ?_⟩
        rw [State.settle_withFree, State.settle_settle]

/-! ## Catching up -/

theorem State.catchUp_of_due {s : State} (h : s.speedDue = true) :
    s.catchUp = (State.drainBy State.nextSpeedEvent maxSampleEvents s).settle := if_pos h

theorem State.catchUp_of_notDue {s : State} (h : s.speedDue = false) : s.catchUp = s := if_neg (by simp [h])

theorem State.speedDue_eq_false_iff (s : State) :
    s.speedDue = false ↔ s.stepDue = none ∧ s.stallDue = false ∧ s.decayDue = false := by
  simp [State.speedDue, and_assoc]

section
variable {s : State} {d : Dir}

theorem State.nextSpeedEvent_eq_none (hstep : s.stepDue = none) (hstall : s.stallDue = false)
    (hdecay : s.decayDue = false) : s.nextSpeedEvent = none := by
  simp [State.nextSpeedEvent, hstep, hstall, hdecay]

/-- With one speed event next and none after it, catching up takes that event. -/
theorem State.catchUp_of_last {e : FieldEvent} (h : s.nextSpeedEvent = some e)
    (hlast : (s.takeEvent e).stepDue = none ∧ (s.takeEvent e).stallDue = false ∧ (s.takeEvent e).decayDue = false) :
    s.catchUp = (s.takeEvent e).settle := by
  have hdue : s.speedDue = true := by
    by_contra hnone
    obtain ⟨hstep, hstall, hdecay⟩ := s.speedDue_eq_false_iff.mp (Bool.eq_false_iff.mpr hnone)
    simp [State.nextSpeedEvent_eq_none hstep hstall hdecay] at h
  obtain ⟨hstep, hstall, hdecay⟩ := hlast
  rw [State.catchUp_of_due hdue, maxSampleEvents,
    State.drainBy_last 23 h (State.nextSpeedEvent_eq_none hstep hstall hdecay)]

theorem State.takeEvent_step (h : s.stepDue = some d) :
    s.takeEvent .step = State.takeStep d s.freeArrivalTurn { s with free := s.free + 1 } := by
  simp [State.takeEvent, h]

/-- Right after a step its stall time has not expired. -/
theorem Tsu.step_stallExpired (d : Dir) {t : Tsu} (h : t.stallMs ≠ 0) : (t.step d).stallExpired = false := by
  rw [Tsu.step_eq, Tsu.present_stallExpired]
  simp [Tsu.stallExpired, Tsu.appended, Tsu.sinceStep, elapsed]
  omega

/-- A step with the TSU's part in it leaves no speed event. -/
theorem State.takeEvent_step_last (h : s.stepDue = some d) (hms : s.tsu.stallMs ≠ 0) (hahead : s.sample.ahead = false) :
    (s.takeEvent .step).stepDue = none ∧ (s.takeEvent .step).stallDue = false ∧ (s.takeEvent .step).decayDue = false := by
  have htsu : (s.takeEvent .step).tsu = s.tsu.step d := by
    rw [State.takeEvent_step h, State.takeStep_tsu, State.applyStep_tsu]
    exact if_neg (by simp [hahead])
  refine ⟨State.stepDue_of_taken ?_, ?_, ?_⟩
  · rw [State.takeEvent_step h]
    exact (State.takeStep_sample d _ _).1
  · rw [State.stallDue, htsu, Tsu.step_stallExpired d hms, Bool.and_false]
  · simp [State.decayDue, htsu, Tsu.step_decayed]

theorem exec_step_withFree (turn : ArrivalTurn) (f : Nat) (hhigh : s.nrstLow = false) (h : s.stepDue = some d) :
    exec (.step (.take turn)) { s with free := f } = .next (State.takeStep d turn { s with free := f }).settle :=
  exec_step (s := { s with free := f }) (.take turn) hhigh h

theorem State.takeEvent_stall_tsu : (s.takeEvent .stall).tsu = s.tsu.stall := rfl

theorem State.takeEvent_stall_stepDue : (s.takeEvent .stall).stepDue = s.stepDue := rfl

theorem Tsu.stall_quiet (t : Tsu) : t.stall.stallExpired = false ∧ t.stall.decayed = t.stall.presented := by
  simpa [Tsu.left] using t.stall_left

end

section
variable {s : State} {d : Dir} (hhigh : s.nrstLow = false)
include hhigh

theorem State.catchUp_by_step (hstep : s.stepDue = some d) (hstall : s.stallDue = false) (hms : s.tsu.stallMs ≠ 0)
    (hahead : s.sample.ahead = false) :
    ∃ turn, exec (.step (.take turn)) { s with free := s.free + 1 } = .next s.catchUp := by
  have hnext : s.nextSpeedEvent = some .step := by simp [State.nextSpeedEvent, hstep, hstall]
  refine ⟨s.freeArrivalTurn, ?_⟩
  rw [exec_step_withFree _ _ hhigh hstep, State.catchUp_of_last hnext (State.takeEvent_step_last hstep hms hahead),
    State.takeEvent_step hstep]

theorem State.exec_stallExpiry_withFree (hdue : s.stallDue = true) :
    exec .stallExpiry { s with free := s.free + 1 } = .next (s.takeEvent .stall).settle :=
  live_of_due (s := { s with free := s.free + 1 }) (p := State.stallDue) (f := fun s => s.enterStall.noteMove.settle)
    hhigh hdue

theorem State.catchUp_by_stall (hstep : s.stepDue = none) (hdue : s.stallDue = true) :
    exec .stallExpiry { s with free := s.free + 1 } = .next s.catchUp := by
  have hnext : s.nextSpeedEvent = some .stall := by simp [State.nextSpeedEvent, hstep, hdue]
  obtain ⟨hexpired, hdecayed⟩ := s.tsu.stall_quiet
  have hlast : (s.takeEvent .stall).stepDue = none ∧ (s.takeEvent .stall).stallDue = false
      ∧ (s.takeEvent .stall).decayDue = false :=
    ⟨hstep, by rw [State.stallDue, State.takeEvent_stall_tsu, hexpired, Bool.and_false],
      by simp [State.decayDue, State.takeEvent_stall_tsu, hdecayed]⟩
  rw [State.exec_stallExpiry_withFree hhigh hdue, State.catchUp_of_last hnext hlast]

theorem State.catchUp_by_decay (hstall : s.stallDue = false) (hdue : s.decayDue = true) :
    exec .speedDecay { s with free := s.free + 1 } = .next s.catchUp := by
  obtain ⟨⟨-, hstep⟩, -⟩ : (s.sample.inSample = true ∧ s.stepDue = none) ∧ s.tsu.decayed ≠ s.tsu.presented := by
    simpa [State.decayDue] using hdue
  have hnext : s.nextSpeedEvent = some .decay := by simp [State.nextSpeedEvent, hstep, hstall, hdue]
  have htsu : (s.takeEvent .decay).tsu = s.tsu.present s.tsu.decayed := rfl
  have hlast : (s.takeEvent .decay).stepDue = none ∧ (s.takeEvent .decay).stallDue = false
      ∧ (s.takeEvent .decay).decayDue = false := by
    refine ⟨hstep, ?_, by simp [State.decayDue, htsu, Tsu.present_idem]⟩
    rw [State.stallDue, htsu, Tsu.present_stallExpired]
    exact hstall
  rw [State.catchUp_of_last hnext hlast]
  exact live_of_due (s := { s with free := s.free + 1 }) (p := State.decayDue)
    (f := fun s => s.decay.noteMove.settle) hhigh hdue

/-- With step and stall expiry both due, the step goes first and leaves no stall, or it follows the stall. -/
theorem State.catchUp_by_stepAndStall (hstep : s.stepDue = some d) (hdue : s.stallDue = true) (hms : s.tsu.stallMs ≠ 0)
    (hahead : s.sample.ahead = false) :
    ∃ turn, exec (.step (.take turn)) { s with free := s.free + 1 } = .next s.catchUp
      ∨ ∃ u, exec .stallExpiry { s with free := s.free + 1 } = .next u
        ∧ exec (.step (.take turn)) { u with free := s.free + 2 } = .next s.catchUp := by
  cases hfirst : Config.stallFirst s.free with
  | false =>
    have hnext : s.nextSpeedEvent = some .step := by simp [State.nextSpeedEvent, hstep, hdue, hfirst]
    refine ⟨s.freeArrivalTurn, .inl ?_⟩
    rw [exec_step_withFree _ _ hhigh hstep, State.catchUp_of_last hnext (State.takeEvent_step_last hstep hms hahead),
      State.takeEvent_step hstep]
  | true =>
    have hnext : s.nextSpeedEvent = some .stall := by simp [State.nextSpeedEvent, hstep, hdue, hfirst]
    have hhigh' : (s.takeEvent .stall).nrstLow = false := hhigh
    have hstep' : (s.takeEvent .stall).stepDue = some d := hstep
    have hstall' : (s.takeEvent .stall).stallDue = false := by
      rw [State.stallDue, State.takeEvent_stall_tsu, s.tsu.stall_quiet.1, Bool.and_false]
    have hnext' : (s.takeEvent .stall).nextSpeedEvent = some .step := by simp [State.nextSpeedEvent, hstep', hstall']
    obtain ⟨hstep'', hstall'', hdecay''⟩ := State.takeEvent_step_last hstep' (by simpa using hms) hahead
    have hcatchUp : s.catchUp = ((s.takeEvent .stall).takeEvent .step).settle := by
      rw [State.catchUp_of_due (by simp [State.speedDue, hstep]), maxSampleEvents, State.drainBy_succ 23 hnext,
        State.drainBy_last 22 hnext' (State.nextSpeedEvent_eq_none hstep'' hstall'' hdecay'')]
    refine ⟨(s.takeEvent .stall).freeArrivalTurn, .inr ⟨s.takeEvent .stall, ?_, ?_⟩⟩
    · rw [State.exec_stallExpiry_withFree hhigh hdue, State.settle_of_anyDue _ (State.anyDue_of_stepDue hstep')]
    · rw [exec_step_withFree _ _ hhigh' hstep', hcatchUp, State.takeEvent_step hstep']
      rfl

end

/-- In a sample that has moved, a request executes as on the state that has caught up, or it executes in neither. -/
theorem exec_request_moved {c : Instr} {s : State} (h : (requestKind c).isSome = true ∨ c = .badKind)
    (hmoved : s.sample.moved = true) :
    exec c s = exec c s.catchUp ∨ (exec c s = .next s ∧ exec c s.catchUp = .next s.catchUp) := by
  obtain ⟨accepts, act, -, hruns⟩ := exec_runsAs h
  have hcaughtUp : exec c s.catchUp = live (State.execute accepts act) s.catchUp := by
    obtain hrow | ⟨-, -, -, hrow⟩ := hruns s.catchUp
    · exact hrow
    · rwa [State.catchUp_catchUp] at hrow
  rw [hcaughtUp]
  obtain hrow | ⟨-, -, -, hrow⟩ := hruns s
  · rw [hrow]
    exact State.execute_moved accepts act hmoved
  · exact .inl hrow

/-- Settles O10. Draining leaves nothing due and runs the rows of its events; catching up drains the speed events alone. -/
theorem aSampleEndsWithOneEvaluation : Obligations.ASampleEndsWithOneEvaluation := by
  refine ⟨fun s => State.settle_of_open, fun s => State.settle_of_unsettled, fun s hopen => ⟨s.drain_anyDue, ?_, ?_⟩,
    fun s hhigh hopen => ?_, fun s lv hhigh hopen => ?_,
    fun s hstep hstall hdecay => State.catchUp_of_notDue (s.speedDue_eq_false_iff.mpr ⟨hstep, hstall, hdecay⟩),
    fun s => ?_, fun s d hhigh => State.catchUp_by_step hhigh, fun s d hhigh => State.catchUp_by_stepAndStall hhigh,
    fun s hhigh => State.catchUp_by_stall hhigh, fun s hhigh => State.catchUp_by_decay hhigh,
    fun c s => exec_request_moved⟩
  · rw [State.closeSample_of_open hopen]
    rfl
  · exact s.closeSample_closed
  · obtain ⟨cs, t, hcs, hruns, ht⟩ := State.drain_runs maxSampleEvents s.free s hhigh
    refine ⟨cs, t, hcs, hruns, ?_⟩
    rw [ht, State.closeSample_of_open hopen, State.settle_of_open (by simpa using hopen) s.drain_anyDue]
    rfl
  · have hhigh' : s.closeSample.nrstLow = false := by simpa using hhigh
    rw [exec_sample lv hhigh, exec_sample lv hhigh', State.takeSample, State.takeSample,
      State.closeSample_of_closed s.closeSample_closed]
  · obtain ⟨hstep, hstall, hdecay⟩ := s.catchUp.speedDue_eq_false_iff.mp s.catchUp_speedDue
    exact ⟨hstep, hstall, hdecay, by simp, by simp, by simp, by simp⟩

end Sys2Proof.Machine
end
